-- ==== Sys2Proof/Word.lean ====
section
/-!
DEFINITION. Word.lean: the widths of the XEVAN cascade block's values (spec R10, R11).
A byte string is a list of bytes, first byte first; the wrapping arithmetic of R12 is `BitVec`'s own.
-/

namespace Sys2Proof

/-- A byte: an unsigned 8-bit value (R10). -/
abbrev Byte := BitVec 8

/-- A 32-bit word: the bus word, a command word, and the word of CubeHash, Shabal and Haval (R11, R72). -/
abbrev Word := BitVec 32

/-- A 64-bit word: the word of Blake, BMW, Skein, Keccak and SHA-512 (R11). -/
abbrev DWord := BitVec 64

/-- A byte string (R10): a finite sequence of bytes, `ε` being `[]`. -/
abbrev Bytes := List Byte

end Sys2Proof
end

