-- ==== Sys2Proof/Syntax.lean ====
section
/-!
DEFINITION. Syntax.lean: the five commands of the block (spec R102, one constructor per row of
spec/opcode_table.json) and the seventeen engines (spec R2).
-/

namespace Sys2Proof

/-- The seventeen primitive hash engines, in cascade order: engine number 0 (Blake) to 16 (Haval) (R2, R275). -/
inductive Engine where
  | blake | bmw | groestl | skein | jh | keccak | luffa | cubehash | shavite
  | simd | echo | hamsi | fugue | shabal | whirlpool | sha512 | haval
  deriving DecidableEq, Repr

/-- A command. The fields of each constructor are the fields of format C that R102 lists under
"fields used"; the fields that must be zero have no place here. `eng` is the raw 5-bit field ENG: the values
17 to 31 name no engine (R104), and `Instr.wellFormed` refuses them. -/
inductive Instr where
  /-- `NOP` (R139). -/
  | nop
  /-- `XEVAN`: the two-pass cascade over INBUF (R270). -/
  | xevan
  /-- `EINIT e` (R140). -/
  | einit (eng : BitVec 5)
  /-- `EABSORB e, off, len` (R141). -/
  | eabsorb (eng : BitVec 5) (off len : BitVec 8)
  /-- `EFINAL e, off` (R142). -/
  | efinal (eng : BitVec 5) (off : BitVec 8)
  deriving DecidableEq, Repr

end Sys2Proof
end

