-- ==== Sys2Proof/Config.lean ====
section
/-!
DEFINITION. Config.lean: what the spec leaves to the implementation or to the platform (spec R9). A value that the
spec leaves OPEN is an `opaque` constant with no body: no proof can see what it is, so every theorem holds for
every value of it.
-/

namespace Sys2Proof

/-- NENG, the number of engines (R9). -/
def Config.neng : Nat := 17

/-- The span of the register block in bytes (R9, R70). -/
def Config.span : Nat := 0x400

/-- MAXMSG, the longest message one engine state holds, in bytes (R9, R46). -/
def Config.maxMsg : Nat := 2 ^ 61 - 1

/-- The value of the identification register ID (R9, R31). -/
def Config.idValue : Word := 0x58450111#32

/-- The platform parameter behind BASE: the block stands at this multiple of 0x400 (R9, R70). OPEN. -/
opaque Config.baseIndex : Nat

/-- BASE, the block's base address: a multiple of 0x400 (R9, R70). -/
def Config.base : Nat := Config.span * Config.baseIndex

/-- H_6, Luffa: a named parameter, a total function from byte strings to 64 bytes (R9, R15, R195). OPEN. -/
opaque Config.luffa : Bytes → Vector Byte 64

/-- H_8, Shavite: a named parameter (R9, R15, R204). OPEN. -/
opaque Config.shavite : Bytes → Vector Byte 64

/-- H_9, SIMD: a named parameter (R9, R15, R206). OPEN. -/
opaque Config.simd : Bytes → Vector Byte 64

/-- H_11, Hamsi: a named parameter (R9, R15, R212). OPEN. -/
opaque Config.hamsi : Bytes → Vector Byte 64

/-- H_12, Fugue: a named parameter (R9, R15, R214). OPEN. -/
opaque Config.fugue : Bytes → Vector Byte 64

/-- What the latency of a command may depend on (R285, R348): never the contents of a buffer, of a message or of
an intermediate value. -/
inductive LatencyKey where
  /-- NOP: nothing. -/
  | nop
  /-- XEVAN: the input length n(VARIANT), and which of the checks of R284 on INLEN fails. -/
  | xevan (n : Nat) (inlenTooLong inlenTooShort : Bool)
  /-- EINIT: the engine. -/
  | einit (e : Engine)
  /-- EABSORB: the engine, LEN and the length of its message so far. -/
  | eabsorb (e : Engine) (len msgLen : Nat)
  /-- EFINAL: the engine and the length of its message. -/
  | efinal (e : Engine) (msgLen : Nat)
  /-- A word that decodes to an error: the word. -/
  | undecodable (c : Word)
  deriving DecidableEq, Repr

/-- LAT, the latency of each command (R9, R346), counted in the host steps that may happen between the issue and
the core step: finite, not bounded, and drawn afresh at every issue (the first argument is the number of the draw).
OPEN. -/
opaque Config.lat : Nat → LatencyKey → Nat

end Sys2Proof
end

