-- ==== Sys2Proof/Machine/State.lean ====
section
/-!
DEFINITION. Machine/State.lean: the state of the block as plain data (spec R30 to R54), the bus accesses that wait
for it, the reasons a step can stop, and the state after reset (spec R53, R330).
-/

namespace Sys2Proof.Machine

/-- The result codes that a command can complete with (R300). The reserved codes 5 to 14 do not exist (R34). -/
inductive ResultCode where
  | ok | illegal | badEng | range | precond | internal
  deriving DecidableEq, Repr

/-- The two passes of the cascade: SEQ.PASS (R50). -/
inductive Pass where
  | first | second
  deriving DecidableEq, Repr

/-- SEQ.RES, the staged results of the running command (R50, R133): bytes for DBUF at an offset, bytes for DIGEST,
and the new message state of one engine. -/
structure Staged where
  dbuf : Option (Nat × Bytes) := none
  digest : Option Bytes := none
  msg : Option (Engine × Bytes) := none
  deriving DecidableEq, Repr

/-- The private state of the cascade orchestrator (R48 to R50): the engine contexts C[0..16], the working buffer
WBUF, and the position SEQ.PASS and SEQ.STAGE. The host cannot read any of it. -/
structure Cascade where
  ctx : Vector Bytes 17
  wbuf : Bytes
  pass : Pass
  stage : Nat
  deriving DecidableEq, Repr

/-- The width of a bus access (R72, R77). -/
inductive Width where
  | bits8 | bits16 | bits32 | bits64
  deriving DecidableEq, Repr

/-- What a bus access does (R72); a write carries its data in the low bits. -/
inductive Dir where
  | read
  | write (data : BitVec 64)
  deriving DecidableEq, Repr

/-- What the outside world does to the block: one bus access by some host at a physical address (R71, R81, R82), or
the assertion of the platform's reset input, power-on included (R330). -/
inductive HostEvent where
  | access (addr : Nat) (width : Width) (dir : Dir)
  | reset
  deriving DecidableEq, Repr

/-- The answer of the block to a bus access (R73, R74, R77). -/
inductive Response where
  /-- A read completed with this value (R73). -/
  | data (v : Word)
  /-- A write completed, whether or not it took effect (R74, R78, R134). -/
  | written
  /-- The access ended with a bus error at this offset (R77). -/
  | busError (off : BitVec 10)
  deriving DecidableEq, Repr

/-- The bytes of the block's buffers, by block offset: INBUF at 0x100, DBUF at 0x200, DIGEST at 0x300 (R70). The
list is in canonical form: offsets strictly rising, no byte 0x00 listed; an unlisted offset reads 0x00, the reset
contents of every buffer (R53). -/
abbrev Memory := List Host.Cell

/-- The whole state. The fields from `irqEn` to `seqRes` are the spec's (R30, R54); the last four are the MODEL's own:
the outside world's pending accesses, the two counters behind the open parameter LAT, and the last answer given. -/
structure State where
  /-- CTRL.IRQ_EN (R32). -/
  irqEn : Bool
  /-- STATUS.BUSY (R33). -/
  busy : Bool
  /-- STATUS.DONE (R33). -/
  done : Bool
  /-- STATUS.DROP (R33). -/
  drop : Bool
  /-- STATUS.FATAL (R33). -/
  fatal : Bool
  /-- STATUS.ERR (R33, R300). -/
  err : ResultCode
  /-- VARIANT, all 32 bits (R36). -/
  variant : Word
  /-- INLEN.LEN (R37). -/
  inlen : BitVec 8
  /-- INBUF, DBUF and DIGEST (R38 to R40). -/
  mem : Memory
  /-- S[0..16], the engine message states (R45). -/
  msgs : Vector Bytes 17
  /-- C[0..16], WBUF, SEQ.PASS and SEQ.STAGE (R48 to R50). -/
  casc : Cascade
  /-- SEQ.CUR, the command word being executed; meaningful while `busy` (R50). -/
  seqCur : Word
  /-- SEQ.RES, the staged results of the running command (R50). -/
  seqRes : Staged
  /-- MODEL: the outside world's accesses that have not reached the block yet, the next one first (R81, R82). -/
  inbox : List HostEvent
  /-- MODEL: how many host steps may still come before the core step of the running command (R346). -/
  latLeft : Nat
  /-- MODEL: how many latencies have been drawn from the open parameter LAT (R9, R346). -/
  draws : Nat
  /-- MODEL: the answer to the last bus access served (R73, R77). -/
  resp : Option Response
  deriving DecidableEq, Repr

/-- The reasons a step stops. -/
inductive Fault where
  /-- Raised by `step` when the next pending bus access has a physical address outside BASE to BASE + 0x3FF: no such
  location belongs to the block (R70, R71), so the block cannot answer it. SAFE: the model stops where the platform
  would send the access elsewhere. -/
  | outsideBlock (addr : Nat)
  deriving DecidableEq, Repr

/-- The reasons a step is refused. -/
inductive Refusal where
  /-- Raised by an arm of `exec` that has no meaning yet; no arm does. SAFE: the model stops. -/
  | notModelled (mnemonic : String)
  deriving DecidableEq, Repr

/-- The cascade's private state after reset. The spec gives it no value ("a model may take any value", R53); it is
unobservable, because XEVAN initializes all of it before use (R271, R274). DESIGN CHOICE, notes/assumptions/3.md. -/
def Cascade.reset : Cascade :=
  { ctx := Vector.replicate 17 [], wbuf := List.replicate 128 0#8, pass := .first, stage := 1 }

/-- The state right after reset (R53, R330): every register and buffer zero, every engine message empty, no command
running. The model's own fields start empty; SEQ.CUR and SEQ.RES are idle (notes/assumptions/3.md). -/
def State.reset : State :=
  { irqEn := false
    busy := false
    done := false
    drop := false
    fatal := false
    err := .ok
    variant := 0#32
    inlen := 0#8
    mem := []
    msgs := Vector.replicate 17 []
    casc := Cascade.reset
    seqCur := 0#32
    seqRes := {}
    inbox := []
    latLeft := 0
    draws := 0
    resp := none }

end Sys2Proof.Machine
end

