-- ==== Sys2Proof/Machine/Flags.lean ====
section
/-!
DEFINITION. Machine/Flags.lean: the STATUS and CTRL registers as the host reads them, and the interrupt output
(spec R32 to R34, R42, R300).
-/

namespace Sys2Proof.Machine

/-- The number of a result code, as ERR shows it (R300). -/
def ResultCode.code : ResultCode → BitVec 4
  | .ok => 0
  | .illegal => 1
  | .badEng => 2
  | .range => 3
  | .precond => 4
  | .internal => 15

/-- One flag as bit n of a word. -/
def flagBit (b : Bool) (n : Nat) : Word := if b then 1#32 <<< n else 0#32

/-- STATUS as a word: BUSY, DONE, DROP, FATAL in bits 0 to 3, ERR in bits 7:4, the rest zero (R33). -/
def State.statusWord (s : State) : Word :=
  flagBit s.busy 0 ||| flagBit s.done 1 ||| flagBit s.drop 2 ||| flagBit s.fatal 3
    ||| (s.err.code.setWidth 32 <<< 4)

/-- CTRL as a word: IRQ_EN in bit 0; SRST reads 0 (R32). -/
def State.ctrlWord (s : State) : Word := flagBit s.irqEn 0

/-- The interrupt output: `irq = CTRL.IRQ_EN ∧ STATUS.DONE` (R42, R310). -/
def State.irq (s : State) : Bool := s.irqEn && s.done

/-- The STATUS fields at a completion (R133): ERR takes the code, BUSY falls, DONE rises, and INTERNAL sets FATAL. -/
def State.completionFlags (code : ResultCode) (s : State) : State :=
  { s with err := code, busy := false, done := true, fatal := s.fatal || code == .internal }

/-- The STATUS fields at a host write of v to STATUS (R33): bits 1 and 2 clear DONE and DROP; the rest is ignored. -/
def State.ackFlags (v : Word) (s : State) : State :=
  { s with done := s.done && !v[1], drop := s.drop && !v[2] }

end Sys2Proof.Machine
end

