-- ==== Sys2Proof/WellFormed.lean ====
section
/-!
DEFINITION. WellFormed.lean: which terms of `Instr` are commands of the block (spec R104, R105).
-/

namespace Sys2Proof

/-- ENG names an engine: 0 to 16 (R104). -/
def engOk (eng : BitVec 5) : Bool := decide (eng.toNat ≤ 16)

/-- A command is well formed when its engine number, if it has one, names an engine (R104, R105). OFF and LEN
may hold any value: their range is checked by the command itself (R105, R141, R142). -/
def Instr.wellFormed : Instr → Bool
  | .nop => true
  | .xevan => true
  | .einit eng => engOk eng
  | .eabsorb eng _ _ => engOk eng
  | .efinal eng _ => engOk eng

end Sys2Proof
end

