-- ==== Sys2Proof/Decode.lean ====
section
/-!
DEFINITION. Decode.lean: the command encoding (spec R100 to R107): the fields of format C, the opcode map, the
decoder, and the encoder written from the same map.
-/

namespace Sys2Proof

/-- The field OPC, bits 7:0 (R100, R101). -/
def fieldOpc (c : Word) : BitVec 8 := c.extractLsb' 0 8

/-- The field ENG, bits 12:8 (R100, R101). -/
def fieldEng (c : Word) : BitVec 5 := c.extractLsb' 8 5

/-- The field RSV, bits 15:13 (R100, R101). -/
def fieldRsv (c : Word) : BitVec 3 := c.extractLsb' 13 3

/-- The field OFF, bits 23:16 (R100, R101). -/
def fieldOff (c : Word) : BitVec 8 := c.extractLsb' 16 8

/-- The field LEN, bits 31:24 (R100, R101). -/
def fieldLen (c : Word) : BitVec 8 := c.extractLsb' 24 8

/-- A command word built from its fields: `OPC ∨ (ENG << 8) ∨ (OFF << 16) ∨ (LEN << 24)`, with RSV = 0 (R100). -/
def buildWord (opc : BitVec 8) (eng : BitVec 5) (off len : BitVec 8) : Word :=
  opc.setWidth 32 ||| (eng.setWidth 32 <<< 8) ||| (off.setWidth 32 <<< 16) ||| (len.setWidth 32 <<< 24)

/-- The five mnemonics (R102). -/
inductive Mnemonic where
  | nop | xevan | einit | eabsorb | efinal
  deriving DecidableEq, Repr

/-- One row of the opcode map (R102). -/
structure OpcodeRow where
  mnemonic : Mnemonic
  matchBits : Word
  maskBits : Word
  deriving DecidableEq, Repr

/-- The opcode map (R102). -/
def opcodeMap : List OpcodeRow :=
  [ ⟨.nop, 0x00000000, 0xFFFFFFFF⟩,
    ⟨.xevan, 0x00000001, 0xFFFFFFFF⟩,
    ⟨.einit, 0x00000010, 0xFFFFE0FF⟩,
    ⟨.eabsorb, 0x00000011, 0x0000E0FF⟩,
    ⟨.efinal, 0x00000012, 0xFF00E0FF⟩ ]

/-- A word `c` matches a row when `(c ∧ mask) = match` (R102). -/
def OpcodeRow.matchesWord (r : OpcodeRow) (c : Word) : Bool := c &&& r.maskBits == r.matchBits

/-- The command of a mnemonic, its operands read from the word's fields (R101, R102). -/
def Mnemonic.toInstr (m : Mnemonic) (c : Word) : Instr :=
  match m with
  | .nop => .nop
  | .xevan => .xevan
  | .einit => .einit (fieldEng c)
  | .eabsorb => .eabsorb (fieldEng c) (fieldOff c) (fieldLen c)
  | .efinal => .efinal (fieldEng c) (fieldOff c)

/-- The two results by which the decoder turns a word away (R105). -/
inductive DecodeError where
  /-- No row of the opcode map matches (R103, R301). -/
  | illegal
  /-- A row matches, and ENG names no engine (R104, R302). -/
  | badEng
  deriving DecidableEq, Repr

/-- What the decoder answers: a command, or an error by name (R105). -/
inductive Decoded where
  | instr (i : Instr)
  | error (e : DecodeError)
  deriving DecidableEq, Repr

/-- `decode(c)` (R105): ILLEGAL where no row matches, then BADENG where the engine number names no engine. -/
def decode (c : Word) : Decoded :=
  match opcodeMap.find? (fun r => r.matchesWord c) with
  | none => .error .illegal
  | some r =>
    let i := r.mnemonic.toInstr c
    if i.wellFormed then .instr i else .error .badEng

/-- The word of a command (R100, R102, R107). -/
def encode : Instr → Word
  | .nop => buildWord 0x00 0 0 0
  | .xevan => buildWord 0x01 0 0 0
  | .einit eng => buildWord 0x10 eng 0 0
  | .eabsorb eng off len => buildWord 0x11 eng off len
  | .efinal eng off => buildWord 0x12 eng off 0

/-- The mnemonic of a command (R102). -/
def Instr.mnemonic : Instr → Mnemonic
  | .nop => .nop
  | .xevan => .xevan
  | .einit _ => .einit
  | .eabsorb _ _ _ => .eabsorb
  | .efinal _ _ => .efinal

/-- The command the decoder reads from a table word of `nbits` bits; a command is one 32-bit word (R100), so every bit
above `nbits` is 0. -/
def decodeTableWord (nbits w : Nat) : Option Instr :=
  match decode (BitVec.ofNat 32 (w % 2 ^ nbits)) with
  | .instr i => some i
  | .error _ => none

end Sys2Proof
end

