-- ==== Sys2Proof/Machine/Bytes.lean ====
section
/-!
DEFINITION. Machine/Bytes.lean: byte strings, byte order and padding lengths, as the engines and the bus use them
(spec R10, R11, R16).
-/

namespace Sys2Proof.Machine

/-- The list `f 0, …, f (n-1)`. -/
def tab {α : Type} (n : Nat) (f : Nat → α) : List α := (List.range n).map f

/-- Element `i` of a list of words, bytes or nibbles; zero past its end (no rule reads there). -/
def nth {w : Nat} (xs : List (BitVec w)) (i : Nat) : BitVec w := xs.getD i 0#w

/-- `zeros(n)`: n bytes of 0x00 (R10). -/
def zeros (n : Nat) : Bytes := List.replicate n 0#8

/-- `s[a : a+n)` (R10). -/
def slice (s : Bytes) (a n : Nat) : Bytes := (s.drop a).take n

/-- A byte string as an integer, its first byte least significant (R11). -/
def leNat : Bytes → Nat
  | [] => 0
  | b :: bs => b.toNat + 256 * leNat bs

/-- A byte string as an integer, its first byte most significant (R11). -/
def beNat (s : Bytes) : Nat := leNat s.reverse

/-- `to_leN(x, n)`: the n low bytes of x, least significant first (R11). -/
def toLE (n x : Nat) : Bytes := tab n fun i => BitVec.ofNat 8 (x >>> (8 * i))

/-- `to_beN(x, n)`: the n low bytes of x, most significant first (R11). -/
def toBE (n x : Nat) : Bytes := tab n fun i => BitVec.ofNat 8 (x >>> (8 * (n - 1 - i)))

/-- `le32` (R11). -/
def le32 (s : Bytes) : Word := BitVec.ofNat 32 (leNat s)

/-- `le64` (R11). -/
def le64 (s : Bytes) : DWord := BitVec.ofNat 64 (leNat s)

/-- `be64` (R11). -/
def be64 (s : Bytes) : DWord := BitVec.ofNat 64 (beNat s)

/-- `to_le32` (R11). -/
def toLe32 (x : Word) : Bytes := toLE 4 x.toNat

/-- `to_le64` (R11). -/
def toLe64 (x : DWord) : Bytes := toLE 8 x.toNat

/-- `to_be64` (R11). -/
def toBe64 (x : DWord) : Bytes := toBE 8 x.toNat

/-- `words32le(s)` (R16), the first k words. -/
def words32le (k : Nat) (s : Bytes) : List Word := tab k fun i => le32 (slice s (4 * i) 4)

/-- `words64le(s)` (R16), the first k words. -/
def words64le (k : Nat) (s : Bytes) : List DWord := tab k fun i => le64 (slice s (8 * i) 8)

/-- `words64be(s)` (R16), the first k words. -/
def words64be (k : Nat) (s : Bytes) : List DWord := tab k fun i => be64 (slice s (8 * i) 8)

/-- The first k blocks of n elements of s, in order. -/
def chunks {α : Type} (n : Nat) : Nat → List α → List (List α)
  | 0, _ => []
  | k + 1, s => s.take n :: chunks n k (s.drop n)

/-- A padded message cut into its blocks of n bytes. -/
def blocks (n : Nat) (p : Bytes) : List Bytes := chunks n (p.length / n) p

/-- The least z ≥ 0 with (len + 1 + z) mod m = r, for r < m: how many zero bytes follow the first padding byte. -/
def padZeros (len m r : Nat) : Nat := (m + r - (len + 1) % m) % m

/-- Bytewise ⊕ of two byte strings. -/
def xorBytes (a b : Bytes) : Bytes := List.zipWith (· ^^^ ·) a b

/-- Wordwise ⊕ of two lists of 64-bit words. -/
def xorWords (a b : List DWord) : List DWord := List.zipWith (· ^^^ ·) a b

/-- A counter that counts message bits: L up to the end of the message, 1024 for each full block before it, and
zero for a block of 128 bytes that holds no message byte (R168, R210). -/
def bitCounter (msgLen i : Nat) : Nat :=
  if 128 * i ≥ msgLen then 0 else min (8 * msgLen) (1024 * (i + 1))

end Sys2Proof.Machine
end

