-- ==== Sys2Proof/Machine/Memory.lean ====
section
/-!
DEFINITION. Machine/Memory.lean: the bytes of the block's buffers (spec R38 to R40, R70, R75), as a list of cells in
one canonical form.
-/

namespace Sys2Proof.Machine

/-- The byte at a block offset: an unlisted offset reads 0x00 (R53). -/
def Memory.read : Memory → Nat → Byte
  | [], _ => 0#8
  | (k, b) :: m, a => if k = a then b else Memory.read m a

/-- A cell put in its place by offset. -/
def Memory.insert (a : Nat) (b : Byte) : Memory → Memory
  | [] => [(a, b)]
  | (k, v) :: m => if a < k then (a, b) :: (k, v) :: m else (k, v) :: Memory.insert a b m

/-- Write one byte. Writing 0x00, what an unlisted offset reads as, removes the cell. -/
def Memory.write (m : Memory) (a : Nat) (b : Byte) : Memory :=
  let rest := m.filter fun c => c.1 != a
  if b = 0#8 then rest else Memory.insert a b rest

/-- `X[a : a+n)` (R13). -/
def Memory.readBytes (m : Memory) (a n : Nat) : Bytes := tab n fun i => Memory.read m (a + i)

/-- Write a byte string from offset a on (R13). -/
def Memory.writeBytes (m : Memory) (a : Nat) : Bytes → Memory
  | [] => m
  | b :: bs => Memory.writeBytes (Memory.write m a b) (a + 1) bs

/-- The canonical form: offsets strictly rising, no listed byte 0x00. -/
def Memory.wf : Memory → Bool
  | [] => true
  | (a, b) :: m => b != 0#8 && m.all (fun c => a < c.1) && Memory.wf m

/-- The window offset and size of INBUF (R70). -/
def inbufBase : Nat := 0x100
def inbufSize : Nat := 112

/-- The window offset and size of DBUF (R70). -/
def dbufBase : Nat := 0x200
def dbufSize : Nat := 128

/-- The window offset and size of DIGEST (R70). -/
def digestBase : Nat := 0x300
def digestSize : Nat := 32

/-- A block offset lies in one of the three buffers (R70). -/
def inBuffer (a : Nat) : Bool :=
  (inbufBase ≤ a && a < inbufBase + inbufSize) || (dbufBase ≤ a && a < dbufBase + dbufSize)
    || (digestBase ≤ a && a < digestBase + digestSize)

/-- Every listed cell is a byte of a buffer: nothing is stored at a register or a reserved offset (R41, R70). -/
def Memory.inWindows (m : Memory) : Bool := m.all fun c => inBuffer c.1

end Sys2Proof.Machine
end

