-- ==== Sys2Proof/Machine/Operands.lean ====
section
/-!
DEFINITION. Machine/Operands.lean: what a command's operands name: an engine and its message state (spec R2, R45,
R104), bytes of DBUF (R141, R142), and the input of the cascade (R36 to R38, R272).
-/

namespace Sys2Proof

/-- The engines in cascade order, engine number e at place e (R2, R275). -/
def Engine.all : List Engine :=
  [ .blake, .bmw, .groestl, .skein, .jh, .keccak, .luffa, .cubehash, .shavite,
    .simd, .echo, .hamsi, .fugue, .shabal, .whirlpool, .sha512, .haval ]

/-- The engine number e (R2). -/
def Engine.num : Engine → Fin 17
  | .blake => 0
  | .bmw => 1
  | .groestl => 2
  | .skein => 3
  | .jh => 4
  | .keccak => 5
  | .luffa => 6
  | .cubehash => 7
  | .shavite => 8
  | .simd => 9
  | .echo => 10
  | .hamsi => 11
  | .fugue => 12
  | .shabal => 13
  | .whirlpool => 14
  | .sha512 => 15
  | .haval => 16

/-- The ENG field of an engine (R100, R106). -/
def Engine.field (e : Engine) : BitVec 5 := BitVec.ofNat 5 e.num.val

/-- N_e, the digest width of an engine in bytes (R2): 32 for Haval, 64 for every other. -/
def Engine.digestLen : Engine → Nat
  | .haval => 32
  | _ => 64

/-- The engine that the field ENG names; none for 17 to 31 (R104). -/
def engineOf? (eng : BitVec 5) : Option Engine := Engine.all[eng.toNat]?

namespace Machine

/-- S[e], the message state of an engine (R45). -/
def State.msg (s : State) (e : Engine) : Bytes := s.msgs[e.num]

/-- The bytes DBUF[off : off + len) (R39, R141). -/
def State.dbuf (s : State) (off len : Nat) : Bytes := Memory.readBytes s.mem (dbufBase + off) len

/-- The bytes INBUF[0 : n) (R38, R270). -/
def State.inbuf (s : State) (n : Nat) : Bytes := Memory.readBytes s.mem inbufBase n

/-- The bytes DIGEST[0 : 32) (R40). -/
def State.digest (s : State) : Bytes := Memory.readBytes s.mem digestBase digestSize

/-- `n(VARIANT)` (R9, R272): the whole register is compared with 4 (R36). -/
def inputLen (variant : Word) : Nat := if variant = 4#32 then 112 else 80

/-- The bytes off .. off + n - 1 lie in DBUF (R141, R142). -/
def dbufFits (off n : Nat) : Bool := decide (off + n ≤ dbufSize)

/-- The message of e with `len` bytes more is not longer than MAXMSG (R46, R141). -/
def msgFits (s : State) (e : Engine) (len : Nat) : Bool := decide ((s.msg e).length + len ≤ Config.maxMsg)

end Machine

end Sys2Proof
end

