-- ==== Sys2Proof/Machine/Ops.lean ====
section
/-!
DEFINITION. Machine/Ops.lean: the shared operations of the commands: issue, completion with its commit, the raising
of an error and its acknowledgement, and reset (spec R131 to R136, R300 to R311, R330 to R332).
-/

namespace Sys2Proof.Machine

/-- Write bytes into DBUF at `off` (R142). -/
def State.writeDbuf (s : State) (off : Nat) (d : Bytes) : State :=
  { s with mem := Memory.writeBytes s.mem (dbufBase + off) d }

/-- Write bytes into DIGEST (R279). -/
def State.writeDigest (s : State) (d : Bytes) : State :=
  { s with mem := Memory.writeBytes s.mem digestBase d }

/-- `S[e] <- m` (R130). -/
def State.setMsg (s : State) (e : Engine) (m : Bytes) : State :=
  { s with msgs := s.msgs.set e.num.val m e.num.isLt }

/-- The commit of the staged results SEQ.RES to DBUF, DIGEST and S[0..16] (R133); nothing stays staged. -/
def State.commit (s : State) : State :=
  let s1 := match s.seqRes.dbuf with
    | none => s
    | some (off, d) => s.writeDbuf off d
  let s2 := match s.seqRes.digest with
    | none => s1
    | some d => s1.writeDigest d
  let s3 := match s.seqRes.msg with
    | none => s2
    | some (e, m) => s2.setMsg e m
  { s3 with seqRes := {} }

/-- `complete(code)` (R133): commit on OK alone, then the STATUS fields. -/
def complete (code : ResultCode) (s : State) : State :=
  (if code = .ok then s.commit else s).completionFlags code

/-- The normal end of a command: stage its results in SEQ.RES and complete with OK (R133). -/
def finish (r : Staged) (s : State) : State := complete .ok { s with seqRes := r }

/-- `raise CmdError(code)` (R14, R300): the block's one form of taking an exception (R311). The cause is recorded in
STATUS.ERR, DONE and the interrupt rise as at every completion, and nothing else changes (R307). -/
def raise (code : ResultCode) (s : State) : State := complete code s

/-- The return from an exception (R311): the host writes v to STATUS and so clears DONE (and DROP); nothing has to be
restored. Also any other write to STATUS (R33). -/
def acknowledge (v : Word) (s : State) : State := s.ackFlags v

/-- What the latency of the command word c may depend on, in the state of its issue (R285, R348). -/
def latencyKey (c : Word) (s : State) : LatencyKey :=
  match decode c with
  | .error _ => .undecodable c
  | .instr .nop => .nop
  | .instr .xevan =>
    .xevan (inputLen s.variant) (decide (s.inlen.toNat > inbufSize)) (decide (s.inlen.toNat < inputLen s.variant))
  | .instr (.einit eng) =>
    match engineOf? eng with
    | some e => .einit e
    | none => .undecodable c
  | .instr (.eabsorb eng _ len) =>
    match engineOf? eng with
    | some e => .eabsorb e len.toNat (s.msg e).length
    | none => .undecodable c
  | .instr (.efinal eng _) =>
    match engineOf? eng with
    | some e => .efinal e (s.msg e).length
    | none => .undecodable c

/-- Issue of a command word (R132): dropped while a command runs or FATAL is set; else it becomes the running command,
and its latency is drawn from the open parameter LAT (R346). -/
def issue (c : Word) (s : State) : State :=
  if s.busy || s.fatal then { s with drop := true }
  else
    { s with
      seqCur := c
      done := false
      busy := true
      latLeft := Config.lat s.draws (latencyKey c s)
      draws := s.draws + 1 }

/-- A write to VARIANT, INLEN, INBUF or DBUF (R134): dropped while a command runs, else `f` takes effect. -/
def guardedWrite (f : State → State) (s : State) : State :=
  if s.busy then { s with drop := true } else f s

/-- Every piece of the block's state at its reset value (R330, R332): a running command is aborted and never
completes. The outside world's pending accesses, the last answer and the number of latencies drawn are not the
block's, and stay. -/
def resetBlock (s : State) : State :=
  { State.reset with inbox := s.inbox, draws := s.draws, resp := s.resp }

/-- A write of v to CTRL (R32, R332): SRST resets the block and discards the written IRQ_EN; else IRQ_EN is written. -/
def writeCtrl (v : Word) (s : State) : State :=
  if v[1] then resetBlock s else { s with irqEn := v[0] }

end Sys2Proof.Machine
end

