-- ==== Sys2Proof/Machine/Bus.lean ====
section
/-!
DEFINITION. Machine/Bus.lean: the bus target: the address map and the effect of every access (spec R31 to R41, R70 to
R78, R134), and the host's step.
-/

namespace Sys2Proof.Machine

/-- What a block offset belongs to (R70). -/
inductive Target where
  | id | ctrl | status | cmd | variant | inlen | inbuf | dbuf | digest | reserved
  deriving DecidableEq, Repr

/-- The address map (R70), for the offset of an aligned word. -/
def target (off : Nat) : Target :=
  if off = 0x000 then .id
  else if off = 0x004 then .ctrl
  else if off = 0x008 then .status
  else if off = 0x00C then .cmd
  else if off = 0x010 then .variant
  else if off = 0x014 then .inlen
  else if inbufBase ≤ off ∧ off < inbufBase + inbufSize then .inbuf
  else if dbufBase ≤ off ∧ off < dbufBase + dbufSize then .dbuf
  else if digestBase ≤ off ∧ off < digestBase + digestSize then .digest
  else .reserved

/-- The four buffer bytes at an offset, packed little-endian (R75). -/
def bufferWord (m : Memory) (off : Nat) : Word := le32 (Memory.readBytes m off 4)

/-- `MemRead(off, 4)` (R73). -/
def memRead (s : State) (off : Nat) : Word :=
  match target off with
  | .id => Config.idValue
  | .ctrl => s.ctrlWord
  | .status => s.statusWord
  | .cmd => 0#32
  | .variant => s.variant
  | .inlen => s.inlen.setWidth 32
  | .inbuf => bufferWord s.mem off
  | .dbuf => bufferWord s.mem off
  | .digest => bufferWord s.mem off
  | .reserved => 0#32

/-- The four bytes of v written at a buffer offset (R74, R75). -/
def writeBufferWord (off : Nat) (v : Word) (s : State) : State :=
  { s with mem := Memory.writeBytes s.mem off (toLe32 v) }

/-- `MemWrite(off, 4, v)` (R74), by target. -/
def memWrite (off : Nat) (v : Word) (s : State) : State :=
  match target off with
  | .id => s
  | .ctrl => writeCtrl v s
  | .status => acknowledge v s
  | .cmd => issue v s
  | .variant => guardedWrite (fun s => { s with variant := v }) s
  | .inlen => guardedWrite (fun s => { s with inlen := v.setWidth 8 }) s
  | .inbuf => guardedWrite (writeBufferWord off v) s
  | .dbuf => guardedWrite (writeBufferWord off v) s
  | .digest => s
  | .reserved => s

/-- The block takes a 32-bit access at a multiple of 4, and no other (R72, R77). -/
def accessOk (off : BitVec 10) (w : Width) : Bool := w == .bits32 && off.toNat % 4 == 0

/-- One bus access at a block offset, with its answer (R72 to R78). -/
def busAccess (off : BitVec 10) (w : Width) (d : Dir) (s : State) : State :=
  if accessOk off w then
    match d with
    | .read => { s with resp := some (.data (memRead s off.toNat)) }
    | .write v => { memWrite off.toNat (v.setWidth 32) s with resp := some .written }
  else { s with resp := some (.busError off) }

/-- The block offset of a physical address: `addr - BASE`, inside the block's 0x400 bytes (R70, R71). -/
def blockOffset? (addr : Nat) : Option (BitVec 10) :=
  if Config.base ≤ addr ∧ addr < Config.base + Config.span then some (BitVec.ofNat 10 (addr - Config.base)) else none

/-- A step of the outside world (R131, R346): one bus access, or the platform's reset (R330). -/
def hostStep (ev : HostEvent) (s : State) : Host.Outcome State Fault Refusal :=
  match ev with
  | .reset => .next (resetBlock s)
  | .access addr w d =>
    match blockOffset? addr with
    | none => .fault (.outsideBlock addr)
    | some off => .next (busAccess off w d s)

end Sys2Proof.Machine
end

