-- ==== Sys2Proof/Machine/Bmw.lean ====
section
/-!
DEFINITION. Machine/Bmw.lean: engine 1, Blue Midnight Wish BMW-512 (spec R170 to R175).
-/

namespace Sys2Proof.Machine

/-- IV_BMW (R170). -/
def bmwIV : List DWord := tab 16 fun i => 0x8081828384858687#64 + BitVec.ofNat 64 i * 0x0808080808080808#64

/-- CONST_BMW (R170). -/
def bmwConst : List DWord := tab 16 fun i => 0xaaaaaaaaaaaaaaa0#64 + BitVec.ofNat 64 i

/-- s0 to s5 of R171, by number. -/
def bmwS (k : Nat) (x : DWord) : DWord :=
  match k with
  | 0 => (x >>> 1) ^^^ (x <<< 3) ^^^ x.rotateLeft 4 ^^^ x.rotateLeft 37
  | 1 => (x >>> 1) ^^^ (x <<< 2) ^^^ x.rotateLeft 13 ^^^ x.rotateLeft 43
  | 2 => (x >>> 2) ^^^ (x <<< 1) ^^^ x.rotateLeft 19 ^^^ x.rotateLeft 53
  | 3 => (x >>> 2) ^^^ (x <<< 2) ^^^ x.rotateLeft 28 ^^^ x.rotateLeft 59
  | 4 => (x >>> 1) ^^^ x
  | _ => (x >>> 2) ^^^ x

/-- r1 to r7 of R171: the rotation amounts. -/
def bmwR (k : Nat) (x : DWord) : DWord := x.rotateLeft ([5, 11, 27, 32, 37, 43, 53].getD (k - 1) 0)

/-- The table of R172: row j lists the five terms of W[j], each with its sign (true for minus). -/
def bmwTerms : List (List (Bool × Nat)) :=
  let p := fun (i : Nat) => (false, i)
  let n := fun (i : Nat) => (true, i)
  [ [p 5, n 7, p 10, p 13, p 14],
    [p 6, n 8, p 11, p 14, n 15],
    [p 0, p 7, p 9, n 12, p 15],
    [p 0, n 1, p 8, n 10, p 13],
    [p 1, p 2, p 9, n 11, n 14],
    [p 3, n 2, p 10, n 12, p 15],
    [p 4, n 0, n 3, n 11, p 13],
    [p 1, n 4, n 5, n 12, n 14],
    [p 2, n 5, n 6, p 13, n 15],
    [p 0, n 3, p 6, n 7, p 14],
    [p 8, n 1, n 4, n 7, p 15],
    [p 8, n 0, n 2, n 5, p 9],
    [p 1, p 3, n 6, n 9, p 10],
    [p 2, p 4, p 7, p 10, p 11],
    [p 3, n 5, p 8, n 11, n 12],
    [p 12, n 4, n 6, n 9, p 13] ]

/-- f0 (R172): Q[0..15] from the chaining value and the block. -/
def bmwF0 (h m : List DWord) : List DWord :=
  let x := tab 16 fun j => nth m j ^^^ nth h j
  tab 16 fun j =>
    let w := (bmwTerms.getD j []).foldl (fun acc (t : Bool × Nat) =>
      if t.1 then acc - nth x t.2 else acc + nth x t.2) 0#64
    bmwS (j % 5) w + nth h ((j + 1) % 16)

/-- AddElement(j) of R173, for j in 16..31. -/
def bmwAddElement (h m : List DWord) (j : Nat) : DWord :=
  let rot := fun (k : Nat) => (nth m (k % 16)).rotateLeft (k % 16 + 1)
  (rot (j - 16) + rot (j - 13) - rot (j - 6) + BitVec.ofNat 64 (j * 0x0555555555555555))
    ^^^ nth h ((j - 16 + 7) % 16)

/-- expand1 of R173, for j = 16, 17. -/
def bmwExpand1 (h m q : List DWord) (j : Nat) : DWord :=
  (List.range 16).foldl (fun acc k => acc + bmwS ([1, 2, 3, 0].getD (k % 4) 0) (nth q (j - 16 + k))) 0#64
    + bmwAddElement h m j

/-- expand2 of R173, for j in 18..31. -/
def bmwExpand2 (h m q : List DWord) (j : Nat) : DWord :=
  nth q (j - 16) + bmwR 1 (nth q (j - 15)) + nth q (j - 14) + bmwR 2 (nth q (j - 13))
    + nth q (j - 12) + bmwR 3 (nth q (j - 11)) + nth q (j - 10) + bmwR 4 (nth q (j - 9))
    + nth q (j - 8) + bmwR 5 (nth q (j - 7)) + nth q (j - 6) + bmwR 6 (nth q (j - 5))
    + nth q (j - 4) + bmwR 7 (nth q (j - 3)) + bmwS 4 (nth q (j - 2)) + bmwS 5 (nth q (j - 1))
    + bmwAddElement h m j

/-- f1 (R173): Q[0..15] extended to Q[0..31]. -/
def bmwF1 (h m q : List DWord) : List DWord :=
  (List.range 16).foldl (fun q k =>
    q ++ [if k < 2 then bmwExpand1 h m q (16 + k) else bmwExpand2 h m q (16 + k)]) q

/-- f2 (R174): the new chaining value. -/
def bmwF2 (q m : List DWord) : List DWord :=
  let xl := (List.range 8).foldl (fun a i => a ^^^ nth q (16 + i)) 0#64
  let xh := (List.range 8).foldl (fun a i => a ^^^ nth q (24 + i)) xl
  let lo : List DWord :=
    [ ((xh <<< 5) ^^^ (nth q 16 >>> 5) ^^^ nth m 0) + (xl ^^^ nth q 24 ^^^ nth q 0),
      ((xh >>> 7) ^^^ (nth q 17 <<< 8) ^^^ nth m 1) + (xl ^^^ nth q 25 ^^^ nth q 1),
      ((xh >>> 5) ^^^ (nth q 18 <<< 5) ^^^ nth m 2) + (xl ^^^ nth q 26 ^^^ nth q 2),
      ((xh >>> 1) ^^^ (nth q 19 <<< 5) ^^^ nth m 3) + (xl ^^^ nth q 27 ^^^ nth q 3),
      ((xh >>> 3) ^^^ nth q 20 ^^^ nth m 4) + (xl ^^^ nth q 28 ^^^ nth q 4),
      ((xh <<< 6) ^^^ (nth q 21 >>> 6) ^^^ nth m 5) + (xl ^^^ nth q 29 ^^^ nth q 5),
      ((xh >>> 4) ^^^ (nth q 22 <<< 6) ^^^ nth m 6) + (xl ^^^ nth q 30 ^^^ nth q 6),
      ((xh >>> 11) ^^^ (nth q 23 <<< 2) ^^^ nth m 7) + (xl ^^^ nth q 31 ^^^ nth q 7) ]
  let hi : List DWord :=
    [ (nth lo 4).rotateLeft 9 + (xh ^^^ nth q 24 ^^^ nth m 8) + ((xl <<< 8) ^^^ nth q 23 ^^^ nth q 8),
      (nth lo 5).rotateLeft 10 + (xh ^^^ nth q 25 ^^^ nth m 9) + ((xl >>> 6) ^^^ nth q 16 ^^^ nth q 9),
      (nth lo 6).rotateLeft 11 + (xh ^^^ nth q 26 ^^^ nth m 10) + ((xl <<< 6) ^^^ nth q 17 ^^^ nth q 10),
      (nth lo 7).rotateLeft 12 + (xh ^^^ nth q 27 ^^^ nth m 11) + ((xl <<< 4) ^^^ nth q 18 ^^^ nth q 11),
      (nth lo 0).rotateLeft 13 + (xh ^^^ nth q 28 ^^^ nth m 12) + ((xl >>> 3) ^^^ nth q 19 ^^^ nth q 12),
      (nth lo 1).rotateLeft 14 + (xh ^^^ nth q 29 ^^^ nth m 13) + ((xl >>> 4) ^^^ nth q 20 ^^^ nth q 13),
      (nth lo 2).rotateLeft 15 + (xh ^^^ nth q 30 ^^^ nth m 14) + ((xl >>> 7) ^^^ nth q 21 ^^^ nth q 14),
      (nth lo 3).rotateLeft 16 + (xh ^^^ nth q 31 ^^^ nth m 15) + ((xl >>> 2) ^^^ nth q 22 ^^^ nth q 15) ]
  lo ++ hi

/-- `BMWCompress(H, M)` (R174): f0, then f1, then f2. -/
def bmwCompress (h m : List DWord) : List DWord := bmwF2 (bmwF1 h m (bmwF0 h m)) m

/-- The padding of R175. -/
def bmwPad (m : Bytes) : Bytes :=
  m ++ 0x80#8 :: zeros (padZeros m.length 128 120) ++ toLE 8 (8 * m.length)

/-- H_1, BMW (R175). -/
def hashBmw (m : Bytes) : Bytes :=
  let h := (blocks 128 (bmwPad m)).foldl (fun h b => bmwCompress h (words64le 16 b)) bmwIV
  let h' := bmwCompress bmwConst h
  (List.range 8).flatMap fun i => toLe64 (nth h' (8 + i))

end Sys2Proof.Machine
end

