-- ==== Sys2Proof/Machine/CubeHash.lean ====
section
/-!
DEFINITION. Machine/CubeHash.lean: engine 7, CubeHash16/32-512 (spec R200 to R202).
-/

namespace Sys2Proof.Machine

/-- IV_CH (R200), the constant that the rule lists. -/
def cubeIV : List Word :=
  [ 0x2aea2a61, 0x50f494d4, 0x2d538b8b, 0x4167d83e, 0x3fee2313, 0xc701cf8c, 0xcc39968e, 0x50ac5695,
    0x4d42c787, 0xa647a8b3, 0x97cf0bef, 0x825b4537, 0xeef864d2, 0xf22090c4, 0xd0e5cd33, 0xa23911ae,
    0xfcd398d9, 0x148fe485, 0x1b017bef, 0xb6444532, 0x6a536159, 0x2ff5781c, 0x91fa7934, 0x0dbadea9,
    0xd65c8a2b, 0xa5a70e75, 0xb1c62456, 0xbc796576, 0x1921c8f7, 0xe7989af1, 0x7795d246, 0xd43e3b44 ]

/-- One CubeHash round (R201). The lower half is x[0..15], the upper half x[16..31]; a swap of x[i] and x[i+k] for
the i whose bit k is 0 is the exchange of the places i and i ⊕ k. -/
def cubeRound (x : List Word) : List Word :=
  let lo := x.take 16
  let hi := x.drop 16
  let swap := fun (k : Nat) (v : List Word) => tab 16 fun i => nth v (i ^^^ k)
  let rot := fun (k : Nat) (v : List Word) => v.map fun (y : Word) => y.rotateLeft k
  let hi := List.zipWith (· + ·) hi lo
  let lo := rot 7 lo
  let lo := swap 8 lo
  let lo := List.zipWith (· ^^^ ·) lo hi
  let hi := swap 2 hi
  let hi := List.zipWith (· + ·) hi lo
  let lo := rot 11 lo
  let lo := swap 4 lo
  let lo := List.zipWith (· ^^^ ·) lo hi
  let hi := swap 1 hi
  lo ++ hi

/-- n rounds. -/
def cubeRounds (n : Nat) (x : List Word) : List Word := (List.range n).foldl (fun x _ => cubeRound x) x

/-- Absorb one 32-byte block and run 16 rounds (R202). -/
def cubeAbsorb (x : List Word) (b : Bytes) : List Word :=
  cubeRounds 16 (List.zipWith (· ^^^ ·) x (words32le 8 b ++ List.replicate 24 0#32))

/-- The padding of R202. -/
def cubePad (m : Bytes) : Bytes := m ++ 0x80#8 :: zeros (padZeros m.length 32 0)

/-- H_7, CubeHash (R202). -/
def hashCubeHash (m : Bytes) : Bytes :=
  let x := (blocks 32 (cubePad m)).foldl cubeAbsorb cubeIV
  let y := cubeRounds 160 (x.set 31 (nth x 31 ^^^ 1#32))
  (List.range 16).flatMap fun i => toLe32 (nth y i)

end Sys2Proof.Machine
end

