-- ==== Sys2Proof/Machine/Gf.lean ====
section
/-!
DEFINITION. Machine/Gf.lean: multiplication in GF(2^8), the AES S-box and the AES round (spec R161 to R163).
-/

namespace Sys2Proof.Machine

/-- The loop of `gmul` (R161), at most `fuel` bits of b: a is doubled modulo p (its bit 7 becomes a[8] of the rule),
and added to r where b[0] = 1. -/
def gmulLoop (p : Nat) : Nat → Nat → Nat → Nat → Nat
  | 0, _, _, r => r
  | _ + 1, _, 0, r => r
  | fuel + 1, a, b + 1, r =>
    gmulLoop p fuel ((2 * a) ^^^ (p * (a / 128))) ((b + 1) / 2) (r ^^^ (a * ((b + 1) % 2)))

/-- `gmul(a, b, p)` (R161): carry-less multiplication of two bytes, reduced modulo the 9-bit polynomial p. -/
def gmul (p : Nat) (a b : Byte) : Byte := BitVec.ofNat 8 (gmulLoop p 8 a.toNat b.toNat 0)

/-- The AES polynomial, of Groestl and Echo (R161). -/
def aesPoly : Nat := 0x11B

/-- Byte x of a 256-byte table written as sixteen rows of sixteen bytes, a row's first byte most significant:
the layout of the spec's own tables. -/
def tableByte (rows : List Nat) (x : Byte) : Byte :=
  BitVec.ofNat 8 (rows.getD (x.toNat / 16) 0 >>> (8 * (15 - x.toNat % 16)))

/-- The rows `0_` to `f_` of the AES S-box (R162). -/
def aesRows : List Nat :=
  [ 0x637c777bf26b6fc53001672bfed7ab76,
    0xca82c97dfa5947f0add4a2af9ca472c0,
    0xb7fd9326363ff7cc34a5e5f171d83115,
    0x04c723c31896059a071280e2eb27b275,
    0x09832c1a1b6e5aa0523bd6b329e32f84,
    0x53d100ed20fcb15b6acbbe394a4c58cf,
    0xd0efaafb434d338545f9027f503c9fa8,
    0x51a3408f929d38f5bcb6da2110fff3d2,
    0xcd0c13ec5f974417c4a77e3d645d1973,
    0x60814fdc222a908846eeb814de5e0bdb,
    0xe0323a0a4906245cc2d3ac629195e479,
    0xe7c8376d8dd54ea96c56f4ea657aae08,
    0xba78252e1ca6b4c6e8dd741f4bbd8b8a,
    0x703eb5664803f60e613557b986c11d9e,
    0xe1f8981169d98e949b1e87e9ce5528df,
    0x8ca1890dbfe6426841992d0fb054bb16 ]

/-- `SB_AES` (R162). -/
def sbAes (x : Byte) : Byte := tableByte aesRows x

/-- One column of MixColumns (R163); BIG.MixColumns of Echo is the same map (R209). -/
def aesMixColumn (a0 a1 a2 a3 : Byte) : Bytes :=
  [ gmul aesPoly a0 2 ^^^ gmul aesPoly a1 3 ^^^ a2 ^^^ a3,
    a0 ^^^ gmul aesPoly a1 2 ^^^ gmul aesPoly a2 3 ^^^ a3,
    a0 ^^^ a1 ^^^ gmul aesPoly a2 2 ^^^ gmul aesPoly a3 3,
    gmul aesPoly a0 3 ^^^ a1 ^^^ a2 ^^^ gmul aesPoly a3 2 ]

/-- ShiftRows on sixteen items stored column by column: item 4c + r moves from column c + r (R163, R209). -/
def aesShiftRows {α : Type} (d : α) (s : List α) : List α :=
  tab 16 fun i => s.getD (4 * ((i / 4 + i % 4) % 4) + i % 4) d

/-- `AESRound(s, k)` (R163). -/
def aesRound (s k : Bytes) : Bytes :=
  let t := aesShiftRows 0 (s.map sbAes)
  let u := (chunks 4 4 t).flatMap fun c => aesMixColumn (nth c 0) (nth c 1) (nth c 2) (nth c 3)
  xorBytes u k

end Sys2Proof.Machine
end

