-- ==== Sys2Proof/Machine/Echo.lean ====
section
/-!
DEFINITION. Machine/Echo.lean: engine 10, ECHO-512 (spec R208 to R210). The cipher state is a list of sixteen
16-byte words.
-/

namespace Sys2Proof.Machine

/-- The initial chaining value (R208): eight words to_leN(512, 16). -/
def echoIV : List Bytes := List.replicate 8 (toLE 16 512)

/-- BIG.SubWords (R209): word i is keyed with the counter k + i. -/
def echoSubWords (k : Nat) (w : List Bytes) : List Bytes :=
  w.zipIdx.map fun (x, i) => aesRound (aesRound x (toLE 16 ((k + i) % 2 ^ 128))) (zeros 16)

/-- BIG.MixColumns (R209) on the four words of one column: byte j of each word is mixed. -/
def echoMixColumn (c : List Bytes) : List Bytes :=
  let mixed := tab 16 fun j =>
    aesMixColumn (nth (c.getD 0 []) j) (nth (c.getD 1 []) j) (nth (c.getD 2 []) j) (nth (c.getD 3 []) j)
  tab 4 fun r => mixed.map fun (b : Bytes) => nth b r

/-- Round number r of R209; the counter has advanced by 16 in every round before it. -/
def echoRound (c : Nat) (w : List Bytes) (r : Nat) : List Bytes :=
  (chunks 4 4 (aesShiftRows [] (echoSubWords (c + 16 * r) w))).flatMap echoMixColumn

/-- `EchoCompress(V, M, C)` (R209): 10 rounds. -/
def echoCompress (v m : List Bytes) (c : Nat) : List Bytes :=
  let w := (List.range 10).foldl (echoRound c) (v ++ m)
  tab 8 fun i =>
    xorBytes (xorBytes (xorBytes (v.getD i []) (m.getD i [])) (w.getD i [])) (w.getD (i + 8) [])

/-- The padding of R210: the digest size in 2 bytes and the bit length in 16, both little-endian. -/
def echoPad (m : Bytes) : Bytes :=
  m ++ 0x80#8 :: zeros (padZeros m.length 128 110) ++ toLE 2 512 ++ toLE 16 (8 * m.length)

/-- H_10, Echo (R210): V[0] to V[3] of the final chaining value. -/
def hashEcho (m : Bytes) : Bytes :=
  let v := (blocks 128 (echoPad m)).zipIdx.foldl
    (fun v (b, i) => echoCompress v (chunks 16 8 b) (bitCounter m.length i)) echoIV
  tab 64 fun i => nth (v.getD (i / 16) []) (i % 16)

end Sys2Proof.Machine
end

