-- ==== Sys2Proof/Machine/Groestl.lean ====
section
/-!
DEFINITION. Machine/Groestl.lean: engine 2, Grøstl-512 (spec R177 to R179). The 8x16 matrix A is held as its
serialization: A[i][j] is byte 8j + i (R177).
-/

namespace Sys2Proof.Machine

/-- IV_G (R177): 128 zero bytes but byte 126, which is 0x02. -/
def groestlIV : Bytes := zeros 126 ++ [0x02#8, 0x00#8]

/-- The round constant byte (j << 4) ⊕ r of column j, within 8 bits (R178). -/
def groestlRC (j r : Nat) : Byte := BitVec.ofNat 8 (j <<< 4) ^^^ BitVec.ofNat 8 r

/-- AddRoundConstant (R178); `isP` says which permutation. -/
def groestlAdd (isP : Bool) (r : Nat) (a : Bytes) : Bytes :=
  a.zipIdx.map fun (x, k) =>
    let i := k % 8
    let j := k / 8
    if isP then (if i = 0 then x ^^^ groestlRC j r else x)
    else (if i = 7 then x ^^^ 0xFF#8 ^^^ groestlRC j r else x ^^^ 0xFF#8)

/-- The shifts sh of ShiftBytes (R178). -/
def groestlShifts (isP : Bool) : List Nat :=
  if isP then [0, 1, 2, 3, 4, 5, 6, 11] else [1, 3, 5, 11, 0, 2, 4, 6]

/-- ShiftBytes (R178): row i moves left by sh[i] columns. -/
def groestlShift (isP : Bool) (a : Bytes) : Bytes :=
  tab 128 fun k => nth a (8 * ((k / 8 + (groestlShifts isP).getD (k % 8) 0) % 16) + k % 8)

/-- MixBytes on one column (R178). -/
def groestlMixColumn (c : Bytes) : Bytes :=
  tab 8 fun i => (List.range 8).foldl (fun acc k =>
    acc ^^^ gmul aesPoly (nth c k) (nth [2, 2, 3, 4, 5, 3, 5, 7] ((k + 8 - i) % 8))) 0#8

/-- One round r of P or Q (R178). -/
def groestlRound (isP : Bool) (a : Bytes) (r : Nat) : Bytes :=
  (chunks 8 16 (groestlShift isP ((groestlAdd isP r a).map sbAes))).flatMap groestlMixColumn

/-- `Perm(A, which)` (R178): 14 rounds. -/
def groestlPerm (isP : Bool) (a : Bytes) : Bytes := (List.range 14).foldl (groestlRound isP) a

/-- The padding of R179, with the number of 128-byte blocks in its last eight bytes. -/
def groestlPad (m : Bytes) : Bytes :=
  let p := m ++ 0x80#8 :: zeros (padZeros m.length 128 120)
  p ++ toBE 8 ((p.length + 8) / 128)

/-- H_2, Groestl (R179). -/
def hashGroestl (m : Bytes) : Bytes :=
  let h := (blocks 128 (groestlPad m)).foldl (fun h b =>
    xorBytes (xorBytes (groestlPerm true (xorBytes h b)) (groestlPerm false b)) h) groestlIV
  let out := xorBytes (groestlPerm true h) h
  tab 64 fun i => nth out (64 + i)

end Sys2Proof.Machine
end

