-- ==== Sys2Proof/Machine/Haval.lean ====
section
/-!
DEFINITION. Machine/Haval.lean: engine 16, HAVAL-256 with 5 passes (spec R248 to R251).
-/

namespace Sys2Proof.Machine

/-- IV_HV (R248). -/
def havalIV : List Word :=
  [ 0x243f6a88, 0x85a308d3, 0x13198a2e, 0x03707344, 0xa4093822, 0x299f31d0, 0x082efa98, 0xec4e6c89 ]

/-- F1 (R249). -/
def havalF1 (x6 x5 x4 x3 x2 x1 x0 : Word) : Word :=
  (x1 &&& x4) ^^^ (x2 &&& x5) ^^^ (x3 &&& x6) ^^^ (x0 &&& x1) ^^^ x0

/-- F2 (R249). -/
def havalF2 (x6 x5 x4 x3 x2 x1 x0 : Word) : Word :=
  (x1 &&& x2 &&& x3) ^^^ (x2 &&& x4 &&& x5) ^^^ (x1 &&& x2) ^^^ (x1 &&& x4) ^^^ (x2 &&& x6)
    ^^^ (x3 &&& x5) ^^^ (x4 &&& x5) ^^^ (x0 &&& x2) ^^^ x0

/-- F3 (R249). -/
def havalF3 (x6 x5 x4 x3 x2 x1 x0 : Word) : Word :=
  (x1 &&& x2 &&& x3) ^^^ (x1 &&& x4) ^^^ (x2 &&& x5) ^^^ (x3 &&& x6) ^^^ (x0 &&& x3) ^^^ x0

/-- F4 (R249). -/
def havalF4 (x6 x5 x4 x3 x2 x1 x0 : Word) : Word :=
  (x1 &&& x2 &&& x3) ^^^ (x2 &&& x4 &&& x5) ^^^ (x3 &&& x4 &&& x6) ^^^ (x1 &&& x4) ^^^ (x2 &&& x6)
    ^^^ (x3 &&& x4) ^^^ (x3 &&& x5) ^^^ (x3 &&& x6) ^^^ (x4 &&& x5) ^^^ (x4 &&& x6) ^^^ (x0 &&& x4) ^^^ x0

/-- F5 (R249). -/
def havalF5 (x6 x5 x4 x3 x2 x1 x0 : Word) : Word :=
  (x1 &&& x4) ^^^ (x2 &&& x5) ^^^ (x3 &&& x6) ^^^ (x0 &&& x1 &&& x2 &&& x3) ^^^ (x0 &&& x5) ^^^ x0

/-- φ_1 to φ_5 (R249), by pass number; the arguments in the rule's order x6 … x0. -/
def havalPhi (p : Nat) (x6 x5 x4 x3 x2 x1 x0 : Word) : Word :=
  match p with
  | 1 => havalF1 x3 x4 x1 x0 x5 x2 x6
  | 2 => havalF2 x6 x2 x1 x0 x3 x4 x5
  | 3 => havalF3 x2 x6 x0 x4 x3 x1 x5
  | 4 => havalF4 x1 x5 x3 x2 x0 x4 x6
  | _ => havalF5 x2 x5 x0 x6 x4 x3 x1

/-- The word orders ord_1 to ord_5 (R250). -/
def havalOrd : List (List Nat) :=
  [ List.range 32,
    [5, 14, 26, 18, 11, 28, 7, 16, 0, 23, 20, 22, 1, 10, 4, 8, 30, 3, 21, 9, 17, 24, 29, 6, 19, 12, 15, 13, 2, 25, 31, 27],
    [19, 9, 4, 20, 28, 17, 8, 22, 29, 14, 25, 12, 24, 30, 16, 26, 31, 15, 7, 3, 1, 0, 18, 27, 13, 6, 21, 10, 23, 11, 5, 2],
    [24, 4, 0, 14, 2, 7, 28, 23, 26, 6, 30, 20, 18, 25, 19, 3, 22, 11, 31, 21, 8, 27, 12, 9, 1, 29, 5, 15, 17, 10, 16, 13],
    [27, 3, 21, 26, 17, 11, 20, 29, 19, 0, 12, 7, 13, 8, 31, 10, 5, 9, 14, 30, 18, 6, 28, 24, 2, 23, 16, 22, 4, 1, 25, 15] ]

/-- The constants K_1 to K_5 (R250); those of pass 1 are 0. -/
def havalK : List (List Word) :=
  [ List.replicate 32 0#32,
    [ 0x452821e6, 0x38d01377, 0xbe5466cf, 0x34e90c6c, 0xc0ac29b7, 0xc97c50dd, 0x3f84d5b5, 0xb5470917,
      0x9216d5d9, 0x8979fb1b, 0xd1310ba6, 0x98dfb5ac, 0x2ffd72db, 0xd01adfb7, 0xb8e1afed, 0x6a267e96,
      0xba7c9045, 0xf12c7f99, 0x24a19947, 0xb3916cf7, 0x0801f2e2, 0x858efc16, 0x636920d8, 0x71574e69,
      0xa458fea3, 0xf4933d7e, 0x0d95748f, 0x728eb658, 0x718bcd58, 0x82154aee, 0x7b54a41d, 0xc25a59b5 ],
    [ 0x9c30d539, 0x2af26013, 0xc5d1b023, 0x286085f0, 0xca417918, 0xb8db38ef, 0x8e79dcb0, 0x603a180e,
      0x6c9e0e8b, 0xb01e8a3e, 0xd71577c1, 0xbd314b27, 0x78af2fda, 0x55605c60, 0xe65525f3, 0xaa55ab94,
      0x57489862, 0x63e81440, 0x55ca396a, 0x2aab10b6, 0xb4cc5c34, 0x1141e8ce, 0xa15486af, 0x7c72e993,
      0xb3ee1411, 0x636fbc2a, 0x2ba9c55d, 0x741831f6, 0xce5c3e16, 0x9b87931e, 0xafd6ba33, 0x6c24cf5c ],
    [ 0x7a325381, 0x28958677, 0x3b8f4898, 0x6b4bb9af, 0xc4bfe81b, 0x66282193, 0x61d809cc, 0xfb21a991,
      0x487cac60, 0x5dec8032, 0xef845d5d, 0xe98575b1, 0xdc262302, 0xeb651b88, 0x23893e81, 0xd396acc5,
      0x0f6d6ff3, 0x83f44239, 0x2e0b4482, 0xa4842004, 0x69c8f04a, 0x9e1f9b5e, 0x21c66842, 0xf6e96c9a,
      0x670c9c61, 0xabd388f0, 0x6a51a0d2, 0xd8542f68, 0x960fa728, 0xab5133a3, 0x6eef0b6c, 0x137a3be4 ],
    [ 0xba3bf050, 0x7efb2a98, 0xa1f1651d, 0x39af0176, 0x66ca593e, 0x82430e88, 0x8cee8619, 0x456f9fb4,
      0x7d84a5c3, 0x3b8b5ebe, 0xe06f75d8, 0x85c12073, 0x401a449f, 0x56c16aa6, 0x4ed3aa62, 0x363f7706,
      0x1bfedf72, 0x429b023d, 0x37d0d724, 0xd00a1248, 0xdb0fead3, 0x49f1c09b, 0x075372c9, 0x80991b7b,
      0x25d479d8, 0xf6e8def7, 0xe3fe501a, 0xb6794c3b, 0x976ce0bd, 0x04c006ba, 0xc1a94fb6, 0x409f60c4 ] ]

/-- Step j of pass p (R251). -/
def havalStep (w : List Word) (p : Nat) (s : List Word) (j : Nat) : List Word :=
  let x := fun (q : Nat) => nth s ((q + 32 - j) % 8)
  let t := havalPhi p (x 6) (x 5) (x 4) (x 3) (x 2) (x 1) (x 0)
  s.set ((39 - j) % 8)
    (t.rotateRight 7 + (x 7).rotateRight 11 + nth w ((havalOrd.getD (p - 1) []).getD j 0)
      + nth (havalK.getD (p - 1) []) j)

/-- Pass p of 32 steps (R251). -/
def havalPass (w : List Word) (s : List Word) (p : Nat) : List Word := (List.range 32).foldl (havalStep w p) s

/-- `HavalCompress(H, W)` (R251). -/
def havalCompress (h w : List Word) : List Word :=
  List.zipWith (· + ·) h ([1, 2, 3, 4, 5].foldl (havalPass w) h)

/-- The padding of R251: 0x01, zeros, the two parameter bytes, and the bit length. -/
def havalPad (m : Bytes) : Bytes :=
  m ++ 0x01#8 :: zeros (padZeros m.length 128 118) ++ [0x29#8, 0x40#8] ++ toLE 8 (8 * m.length)

/-- H_16, Haval (R251). -/
def hashHaval (m : Bytes) : Bytes :=
  let h := (blocks 128 (havalPad m)).foldl (fun h b => havalCompress h (words32le 32 b)) havalIV
  (List.range 8).flatMap fun i => toLe32 (nth h i)

end Sys2Proof.Machine
end

