-- ==== Sys2Proof/Machine/Jh.lean ====
section
/-!
DEFINITION. Machine/Jh.lean: engine 4, JH-512 (spec R186 to R189). Nibbles are 4-bit words.
-/

namespace Sys2Proof.Machine

/-- The S-boxes S0 and S1 (R186), by the constant bit. -/
def jhSbox (c : Bool) (x : BitVec 4) : BitVec 4 :=
  if c then nth [3, 12, 6, 13, 5, 7, 1, 9, 15, 2, 0, 4, 11, 10, 14, 8] x.toNat
  else nth [9, 0, 4, 11, 13, 12, 3, 15, 1, 10, 2, 6, 7, 5, 8, 14] x.toNat

/-- A nibble from its bits, most significant first. -/
def nibble (b0 b1 b2 b3 : Bool) : BitVec 4 :=
  BitVec.ofNat 4 (8 * b0.toNat + 4 * b1.toNat + 2 * b2.toNat + b3.toNat)

/-- The linear map L(A, B) -> (C, D) (R186); bit 0 of the rule's names is the most significant bit. -/
def jhL (a b : BitVec 4) : List (BitVec 4) :=
  let a0 := a.getLsbD 3
  let a1 := a.getLsbD 2
  let a2 := a.getLsbD 1
  let a3 := a.getLsbD 0
  let d0 := b.getLsbD 3 ^^ a1
  let d1 := b.getLsbD 2 ^^ a2
  let d2 := b.getLsbD 1 ^^ a3 ^^ a0
  let d3 := b.getLsbD 0 ^^ a0
  [nibble (a0 ^^ d1) (a1 ^^ d2) (a2 ^^ d3 ^^ d0) (a3 ^^ d0), nibble d0 d1 d2 d3]

/-- L on the pairs (v[2i], v[2i+1]) (R186). -/
def jhLayerL : List (BitVec 4) → List (BitVec 4)
  | a :: b :: v => jhL a b ++ jhLayerL v
  | v => v

/-- π of R186: swap v[4i+2] and v[4i+3]. -/
def jhPi {α : Type} : List α → List α
  | a :: b :: c :: d :: v => a :: b :: d :: c :: jhPi v
  | v => v

/-- The elements at even places. -/
def evens {α : Type} : List α → List α
  | a :: _ :: v => a :: evens v
  | v => v

/-- The elements at odd places. -/
def odds {α : Type} : List α → List α
  | _ :: b :: v => b :: odds v
  | _ => []

/-- Swap the elements of every pair. -/
def swapPairs {α : Type} : List α → List α
  | a :: b :: v => b :: a :: swapPairs v
  | v => v

/-- P_n of R186 on n elements: π, then P' (even places first, then odd places), then φ (swap the pairs of the
second half). -/
def jhPerm {α : Type} (v : List α) : List α :=
  let u := jhPi v
  evens u ++ swapPairs (odds u)

/-- Round R_n(q, c) (R186): the constant's bit n - 1 - i goes with nibble i. -/
def jhRound (n : Nat) (q : List (BitVec 4)) (c : Nat) : List (BitVec 4) :=
  jhPerm (jhLayerL (q.zipIdx.map fun (x, i) => jhSbox (c.testBit (n - 1 - i)) x))

/-- The round constants C_0 to C_41 (R187), 256-bit values. -/
def jhC : List Nat :=
  [ 0x6a09e667f3bcc908b2fb1366ea957d3e3adec17512775099da2f590b0667322a,
    0xbb896bf05955abcd5281828d66e7d99ac4203494f89bf12817deb43288712231,
    0x1836e76b12d79c55118a1139d2417df52a2021225ff6350063d88e5f1f91631c,
    0x263085a7000fa9c3317c6ca8ab65f7a7713cf4201060ce886af855a90d6a4eed,
    0x1cebafd51a156aeb62a11fb3be2e14f60b7e48de85814270fd62e97614d7b441,
    0xe5564cb574f7e09c75e2e244929e9549279ab224a28e445d57185e7d7a09fdc1,
    0x5820f0f0d764cff3a5552a5e41a82b9eff6ee0aa615773bb07e8603424c3cf8a,
    0xb126fb741733c5bfcef6f43a62e8e5706a26656028aa897ec1ea4616ce8fd510,
    0xdbf0de32bca77254bb4f562581a3bc991cf94f225652c27f14eae958ae6aa616,
    0xe6113be617f45f3de53cff03919a94c32c927b093ac8f23b47f7189aadb9bc67,
    0x80d0d26052ca45d593ab5fb3102506390083afb5ffe107dacfcba7dbe601a12b,
    0x43af1c76126714dfa950c368787c81ae3beecf956c85c962086ae16e40ebb0b4,
    0x9aee8994d2d74a5cdb7b1ef294eed5c1520724dd8ed58c92d3f0e174b0c32045,
    0x0b2aa58ceb3bdb9e1eef66b376e0c565d5d8fe7bacb8da866f859ac521f3d571,
    0x7a1523ef3d970a3a9b0b4d610e02749d37b8d57c1885fe4206a7f338e8356866,
    0x2c2db8f7876685f2cd9a2e0ddb64c9d5bf13905371fc39e0fa86e1477234a297,
    0x9df085eb2544ebf62b50686a71e6e828dfed9dbe0b106c9452ceddff3d138990,
    0xe6e5c42cb2d460c9d6e4791a1681bb2e222e54558eb78d5244e217d1bfcf5058,
    0x8f1f57e44e126210f00763ff57da208a5093b8ff7947534a4c260a17642f72b2,
    0xae4ef4792ea148608cf116cb2bff66e8fc74811266cd641112cd17801ed38b59,
    0x91a744efbf68b192d0549b608bdb3191fc12a0e83543cec5f882250b244f78e4,
    0x4b5d27d3368f9c17d4b2a2b216c7e74e7714d2cc03e1e44588cd9936de74357c,
    0x0ea17cafb8286131bda9e3757b3610aa3f77a6d0575053fc926eea7e237df289,
    0x848af9f57eb1a616e2c342c8cea528b8a95a5d16d9d87be9bb3784d0c351c32b,
    0xc0435cc3654fb85dd9335ba91ac3dbde1f85d567d7ad16f9de6e009bca3f95b5,
    0x927547fe5e5e45e2fe99f1651ea1cbf097dc3a3d40ddd21cee260543c288ec6b,
    0xc117a3770d3a34469d50dfa7db020300d306a365374fa828c8b780ee1b9d7a34,
    0x8ff2178ae2dbe5e872fac789a34bc228debf54a882743caad14f3a550fdbe68f,
    0xabd06c52ed58ff091205d0f627574c8cbc1fe7cf79210f5a2286f6e23a27efa0,
    0x631f4acb8d3ca4253e301849f157571d3211b6c1045347befb7c77df3c6ca7bd,
    0xae88f2342c23344590be2014fab4f179fd4bf7c90db14fa4018fcce689d2127b,
    0x93b89385546d71379fe41c39bc602e8b7c8b2f78ee914d1f0af0d437a189a8a4,
    0x1d1e036abeef3f44848cd76ef6baa889fcec56cd7967eb909a464bfc23c72435,
    0xa8e4ede4c5fe5e88d4fb192e0a0821e935ba145bbfc59c2508282755a5df53a5,
    0x8e4e37a3b970f079ae9d22a499a714c875760273f74a9398995d32c05027d810,
    0x61cfa42792f93b9fde36eb163e978709fafa7616ec3c7dad0135806c3d91a21b,
    0xf037c5d91623288b7d0302c1b941b72676a943b372659dcd7d6ef408a11b40c0,
    0x2a306354ca3ea90b0e97eaebcea0a6d7c6522399e885c613de824922c892c490,
    0x3ca6cdd788a5bdc5ef2dceeb16bca31e0a0d2c7e9921b6f71d33e25dd2f3cf53,
    0xf72578721db56bf8f49538b0ae6ea470c2fb1339dd26333f135f7def45376ec0,
    0xe449a03eab359e34095f8b4b55cd7ac7c0ec6510f2c4cc79fa6b1fee6b18c59e,
    0x73bd6978c59f2b219449b36770fb313fbe2da28f6b04275f071a1b193dde2072 ]

/-- Bit i of the grouping of R188: h[i], the state's bits taken most significant first in each byte. The state is
given as the integer whose most significant byte is its first. -/
def jhBit (hN i : Nat) : Bool := hN.testBit (1023 - i)

/-- The grouping of R188: 1024 bits into 256 nibbles. -/
def jhGroup (hN : Nat) : List (BitVec 4) :=
  (List.range 128).flatMap fun i =>
    [ nibble (jhBit hN i) (jhBit hN (i + 256)) (jhBit hN (i + 512)) (jhBit hN (i + 768)),
      nibble (jhBit hN (i + 128)) (jhBit hN (i + 384)) (jhBit hN (i + 640)) (jhBit hN (i + 896)) ]

/-- The bits of a list, most significant first, as an integer. -/
def bitsNat (bs : List Bool) : Nat := bs.foldl (fun n b => 2 * n + b.toNat) 0

/-- The inverse of the grouping (R188), as the 128 bytes of the state. -/
def jhDegroup (q : List (BitVec 4)) : Bytes :=
  let e := evens q
  let o := odds q
  let bit := fun (k : Nat) (v : List (BitVec 4)) => v.map fun (x : BitVec 4) => x.getLsbD k
  toBE 128 (bitsNat (bit 3 e ++ bit 3 o ++ bit 2 e ++ bit 2 o ++ bit 1 e ++ bit 1 o ++ bit 0 e ++ bit 0 o))

/-- `E8(H)` (R188): 42 rounds. -/
def jhE8 (h : Bytes) : Bytes := jhDegroup (jhC.foldl (jhRound 256) (jhGroup (beNat h)))

/-- `F8(H, M)` (R189). -/
def jhF8 (h m : Bytes) : Bytes :=
  let x := jhE8 (xorBytes (h.take 64) m ++ h.drop 64)
  x.take 64 ++ xorBytes (x.drop 64) m

/-- H0 (R189), the constant of 128 bytes that the rule lists. -/
def jhH0 : Bytes := toBE 128
  0x6fd14b963e00aa17636a2e057a15d5438a225e8d0c97ef0be9341259f2b3c361891da0c1536f801e2aa9056bea2b6d80588eccdb2075baa6a90f3a76baf83bf70169e60541e34a6946b58a8e2e6fe65a1047a7d0c1843c243b6e71b12d5ac199cf57f6ec9db1f856a706887c5716b156e3c2fcdfe68517fb545a4678cc8cdd4b

/-- The padding of R189 in bytes: one bit 1 and 383 + ((-l) mod 512) zero bits, then the bit length in 16 bytes;
with l = 8·|m|, that is 0x80, 47 + ((-|m|) mod 64) zero bytes and the length. -/
def jhPad (m : Bytes) : Bytes :=
  m ++ 0x80#8 :: zeros (47 + (64 - m.length % 64) % 64) ++ toBE 16 (8 * m.length)

/-- H_4, JH (R189). -/
def hashJh (m : Bytes) : Bytes :=
  let h := (blocks 64 (jhPad m)).foldl jhF8 jhH0
  tab 64 fun i => nth h (64 + i)

end Sys2Proof.Machine
end

