-- ==== Sys2Proof/Machine/Keccak.lean ====
section
/-!
DEFINITION. Machine/Keccak.lean: engine 5, Keccak-512 with the original padding byte 0x01 (spec R191 to R193).
The 5x5 lane state is a list of 25 lanes: A[x][y] is lane x + 5y.
-/

namespace Sys2Proof.Machine

/-- The round constants RC[0..23] (R191). -/
def keccakRC : List DWord :=
  [ 0x0000000000000001, 0x0000000000008082, 0x800000000000808a, 0x8000000080008000,
    0x000000000000808b, 0x0000000080000001, 0x8000000080008081, 0x8000000000008009,
    0x000000000000008a, 0x0000000000000088, 0x0000000080008009, 0x000000008000000a,
    0x000000008000808b, 0x800000000000008b, 0x8000000000008089, 0x8000000000008003,
    0x8000000000008002, 0x8000000000000080, 0x000000000000800a, 0x800000008000000a,
    0x8000000080008081, 0x8000000000008080, 0x0000000080000001, 0x8000000080008008 ]

/-- The rotation offsets rho[x][y] at place x + 5y: the rows y of R191's table. -/
def keccakRho : List Nat :=
  [ 0, 1, 62, 28, 27,
    36, 44, 6, 55, 20,
    3, 10, 43, 25, 39,
    41, 45, 15, 21, 8,
    18, 2, 61, 56, 14 ]

/-- Lane A[x][y], the indexes taken modulo 5 (R192). -/
def lane (a : List DWord) (x y : Nat) : DWord := nth a (x % 5 + 5 * (y % 5))

/-- θ (R192). -/
def keccakTheta (a : List DWord) : List DWord :=
  let c := tab 5 fun x => lane a x 0 ^^^ lane a x 1 ^^^ lane a x 2 ^^^ lane a x 3 ^^^ lane a x 4
  let d := tab 5 fun x => nth c ((x + 4) % 5) ^^^ (nth c ((x + 1) % 5)).rotateLeft 1
  a.zipIdx.map fun (l, k) => l ^^^ nth d (k % 5)

/-- ρ and π (R192): B[y][2x + 3y] is A[x][y] rotated, so B[u][v] comes from y = u and the x with
2x + 3u = v modulo 5, that is x = u + 3v. -/
def keccakRhoPi (a : List DWord) : List DWord :=
  tab 25 fun k =>
    let u := k % 5
    let v := k / 5
    let x := (u + 3 * v) % 5
    (lane a x u).rotateLeft (keccakRho.getD (x + 5 * u) 0)

/-- χ (R192). -/
def keccakChi (b : List DWord) : List DWord :=
  tab 25 fun k =>
    let x := k % 5
    let y := k / 5
    lane b x y ^^^ (~~~ lane b (x + 1) y &&& lane b (x + 2) y)

/-- One round with its round constant (R192); ι changes lane (0, 0). -/
def keccakRound (a : List DWord) (rc : DWord) : List DWord :=
  let b := keccakChi (keccakRhoPi (keccakTheta a))
  b.set 0 (nth b 0 ^^^ rc)

/-- `KeccakF(A)` (R192): 24 rounds. -/
def keccakF (a : List DWord) : List DWord := keccakRC.foldl keccakRound a

/-- Absorb one 72-byte block into lanes 0 to 8 and permute (R193): lane k of the block goes to
A[k mod 5][k div 5], which is place k. -/
def keccakAbsorb (a : List DWord) (b : Bytes) : List DWord :=
  keccakF (xorWords a (words64le 9 b ++ List.replicate 16 0#64))

/-- The padding of R193: 0x01, zeros, and bit 7 of the last byte. -/
def keccakPad (m : Bytes) : Bytes :=
  let z := padZeros m.length 72 0
  let pad := 0x01#8 :: zeros z
  m ++ pad.set z (nth pad z ||| 0x80#8)

/-- H_5, Keccak (R193). -/
def hashKeccak (m : Bytes) : Bytes :=
  let a := (blocks 72 (keccakPad m)).foldl keccakAbsorb (List.replicate 25 0#64)
  (List.range 8).flatMap fun k => toLe64 (nth a k)

end Sys2Proof.Machine
end

