-- ==== Sys2Proof/Machine/Blake.lean ====
section
/-!
DEFINITION. Machine/Blake.lean: engine 0, BLAKE-512 (spec R165 to R168).
-/

namespace Sys2Proof.Machine

/-- IV512 (R165), also the initial hash value of SHA-512 (R245). -/
def iv512 : List DWord :=
  [ 0x6a09e667f3bcc908, 0xbb67ae8584caa73b, 0x3c6ef372fe94f82b, 0xa54ff53a5f1d36f1,
    0x510e527fade682d1, 0x9b05688c2b3e6c1f, 0x1f83d9abfb41bd6b, 0x5be0cd19137e2179 ]

/-- CB[0..15] (R166). -/
def blakeCB : List DWord :=
  [ 0x243f6a8885a308d3, 0x13198a2e03707344, 0xa4093822299f31d0, 0x082efa98ec4e6c89,
    0x452821e638d01377, 0xbe5466cf34e90c6c, 0xc0ac29b7c97c50dd, 0x3f84d5b5b5470917,
    0x9216d5d98979fb1b, 0xd1310ba698dfb5ac, 0x2ffd72dbd01adfb7, 0xb8e1afed6a267e96,
    0xba7c9045f12c7f99, 0x24a19947b3916cf7, 0x0801f2e2858efc16, 0x636920d871574e69 ]

/-- The message permutations σ_0 to σ_9 (R166). -/
def blakeSigma : List (List Nat) :=
  [ [0, 1, 2, 3, 4, 5, 6, 7, 8, 9, 10, 11, 12, 13, 14, 15],
    [14, 10, 4, 8, 9, 15, 13, 6, 1, 12, 0, 2, 11, 7, 5, 3],
    [11, 8, 12, 0, 5, 2, 15, 13, 10, 14, 3, 6, 7, 1, 9, 4],
    [7, 9, 3, 1, 13, 12, 11, 14, 2, 6, 5, 10, 4, 0, 15, 8],
    [9, 0, 5, 7, 2, 4, 10, 15, 14, 1, 11, 12, 6, 8, 3, 13],
    [2, 12, 6, 10, 0, 11, 8, 3, 4, 13, 7, 5, 15, 14, 1, 9],
    [12, 5, 1, 15, 14, 13, 4, 10, 0, 7, 6, 3, 9, 2, 8, 11],
    [13, 11, 7, 14, 12, 1, 3, 9, 5, 0, 15, 4, 8, 6, 2, 10],
    [6, 15, 14, 9, 11, 3, 0, 8, 12, 2, 13, 7, 1, 4, 10, 5],
    [10, 2, 8, 4, 7, 6, 1, 5, 15, 11, 9, 14, 3, 12, 13, 0] ]

/-- `G(r, i, a, b, c, d)` of R167, on the working vector v. -/
def blakeG (m : List DWord) (r i a b c d : Nat) (v : List DWord) : List DWord :=
  let s := blakeSigma.getD (r % 10) []
  let s0 := s.getD (2 * i) 0
  let s1 := s.getD (2 * i + 1) 0
  let va := nth v a + nth v b + (nth m s0 ^^^ nth blakeCB s1)
  let vd := (nth v d ^^^ va).rotateRight 32
  let vc := nth v c + vd
  let vb := (nth v b ^^^ vc).rotateRight 25
  let va' := va + vb + (nth m s1 ^^^ nth blakeCB s0)
  let vd' := (vd ^^^ va').rotateRight 16
  let vc' := vc + vd'
  let vb' := (vb ^^^ vc').rotateRight 11
  (((v.set a va').set b vb').set c vc').set d vd'

/-- The eight places (a, b, c, d) of the G calls of one round, for i = 0..7 (R167). -/
def blakePlaces : List (Nat × Nat × Nat × Nat) :=
  [ (0, 4, 8, 12), (1, 5, 9, 13), (2, 6, 10, 14), (3, 7, 11, 15),
    (0, 5, 10, 15), (1, 6, 11, 12), (2, 7, 8, 13), (3, 4, 9, 14) ]

/-- One round r of R167. -/
def blakeRound (m : List DWord) (v : List DWord) (r : Nat) : List DWord :=
  (blakePlaces.zipIdx).foldl (fun v (q, i) => blakeG m r i q.1 q.2.1 q.2.2.1 q.2.2.2 v) v

/-- `BlakeCompress(h, m, t)` (R167), with the 128-bit counter t. -/
def blakeCompress (h m : List DWord) (t : Nat) : List DWord :=
  let tLo := BitVec.ofNat 64 t
  let tHi := BitVec.ofNat 64 (t >>> 64)
  let v0 : List DWord :=
    h.take 8 ++ blakeCB.take 4 ++
      [tLo ^^^ nth blakeCB 4, tLo ^^^ nth blakeCB 5, tHi ^^^ nth blakeCB 6, tHi ^^^ nth blakeCB 7]
  let v := (List.range 16).foldl (blakeRound m) v0
  tab 8 fun i => nth h i ^^^ nth v i ^^^ nth v (i + 8)

/-- The padding of R168: 0x80, zeros, the last padding byte with bit 0 set, then the bit length. -/
def blakePad (m : Bytes) : Bytes :=
  let k := padZeros m.length 128 112
  let pad := 0x80#8 :: zeros k
  m ++ pad.set k (nth pad k ||| 1#8) ++ toBE 16 (8 * m.length)

/-- H_0, Blake (R168). -/
def hashBlake (m : Bytes) : Bytes :=
  let h := (blocks 128 (blakePad m)).zipIdx.foldl
    (fun h (b, i) => blakeCompress h (words64be 16 b) (bitCounter m.length i)) iv512
  (List.range 8).flatMap fun i => toBe64 (nth h i)

end Sys2Proof.Machine
end

