-- ==== Sys2Proof/Machine/Sha512.lean ====
section
/-!
DEFINITION. Machine/Sha512.lean: engine 15, SHA-512 (spec R245, R246). Its initial value is IV512 (R165).
-/

namespace Sys2Proof.Machine

/-- The table of R245, one number for each of its rows t = 0, 4, …, 76: the four words of the row side by side, K[t]
the most significant. -/
def shaRows : List Nat :=
  [ 0x428a2f98d728ae227137449123ef65cdb5c0fbcfec4d3b2fe9b5dba58189dbbc,
    0x3956c25bf348b53859f111f1b605d019923f82a4af194f9bab1c5ed5da6d8118,
    0xd807aa98a303024212835b0145706fbe243185be4ee4b28c550c7dc3d5ffb4e2,
    0x72be5d74f27b896f80deb1fe3b1696b19bdc06a725c71235c19bf174cf692694,
    0xe49b69c19ef14ad2efbe4786384f25e30fc19dc68b8cd5b5240ca1cc77ac9c65,
    0x2de92c6f592b02754a7484aa6ea6e4835cb0a9dcbd41fbd476f988da831153b5,
    0x983e5152ee66dfaba831c66d2db43210b00327c898fb213fbf597fc7beef0ee4,
    0xc6e00bf33da88fc2d5a79147930aa72506ca6351e003826f142929670a0e6e70,
    0x27b70a8546d22ffc2e1b21385c26c9264d2c6dfc5ac42aed53380d139d95b3df,
    0x650a73548baf63de766a0abb3c77b2a881c2c92e47edaee692722c851482353b,
    0xa2bfe8a14cf10364a81a664bbc423001c24b8b70d0f89791c76c51a30654be30,
    0xd192e819d6ef5218d69906245565a910f40e35855771202a106aa07032bbd1b8,
    0x19a4c116b8d2d0c81e376c085141ab532748774cdf8eeb9934b0bcb5e19b48a8,
    0x391c0cb3c5c95a634ed8aa4ae3418acb5b9cca4f7763e373682e6ff3d6b2b8a3,
    0x748f82ee5defb2fc78a5636f43172f6084c87814a1f0ab728cc702081a6439ec,
    0x90befffa23631e28a4506cebde82bde9bef9a3f7b2c67915c67178f2e372532b,
    0xca273eceea26619cd186b8c721c0c207eada7dd6cde0eb1ef57d4f7fee6ed178,
    0x06f067aa72176fba0a637dc5a2c898a6113f9804bef90dae1b710b35131c471b,
    0x28db77f523047d8432caab7b40c724933c9ebe0a15c9bebc431d67c49c100d4c,
    0x4cc5d4becb3e42b6597f299cfc657e2a5fcb6fab3ad6faec6c44198c4a475817 ]

/-- The round constants K[0..79] (R245): the four words of every row, from its most significant word down. -/
def shaK : List DWord :=
  shaRows.flatMap fun row => tab 4 fun i => BitVec.ofNat 64 (row >>> (64 * (3 - i)))

/-- W[16..79] appended to W[0..15] (R246): the word W[t] from the t words before it. -/
def shaExtend (w : List DWord) (t : Nat) : List DWord :=
  let x := nth w (t - 15)
  let y := nth w (t - 2)
  let s0 := x.rotateRight 1 ^^^ x.rotateRight 8 ^^^ (x >>> 7)
  let s1 := y.rotateRight 19 ^^^ y.rotateRight 61 ^^^ (y >>> 6)
  w ++ [nth w (t - 16) + s0 + nth w (t - 7) + s1]

/-- The message schedule W[0..79] (R246). -/
def shaSchedule (b : Bytes) : List DWord := (List.range 64).foldl (fun w k => shaExtend w (16 + k)) (words64be 16 b)

/-- One round of R246 on the working words (a, b, …, h), with K[t] and W[t]. -/
def shaRound (v : List DWord) (kw : DWord × DWord) : List DWord :=
  let a := nth v 0
  let b := nth v 1
  let c := nth v 2
  let e := nth v 4
  let f := nth v 5
  let g := nth v 6
  let sig1 := e.rotateRight 14 ^^^ e.rotateRight 18 ^^^ e.rotateRight 41
  let ch := (e &&& f) ^^^ (~~~ e &&& g)
  let t1 := nth v 7 + sig1 + ch + kw.1 + kw.2
  let sig0 := a.rotateRight 28 ^^^ a.rotateRight 34 ^^^ a.rotateRight 39
  let maj := (a &&& b) ^^^ (a &&& c) ^^^ (b &&& c)
  [t1 + (sig0 + maj), a, b, c, nth v 3 + t1, e, f, g]

/-- One block of R246. -/
def shaCompress (h : List DWord) (b : Bytes) : List DWord :=
  List.zipWith (· + ·) h ((shaK.zip (shaSchedule b)).foldl shaRound h)

/-- The padding of R246. -/
def shaPad (m : Bytes) : Bytes :=
  m ++ 0x80#8 :: zeros (padZeros m.length 128 112) ++ toBE 16 (8 * m.length)

/-- H_15, SHA-512 (R246). -/
def hashSha512 (m : Bytes) : Bytes :=
  let h := (blocks 128 (shaPad m)).foldl shaCompress iv512
  (List.range 8).flatMap fun i => toBe64 (nth h i)

end Sys2Proof.Machine
end

