-- ==== Sys2Proof/Machine/Shabal.lean ====
section
/-!
DEFINITION. Machine/Shabal.lean: engine 13, Shabal-512 (spec R216 to R218).
-/

namespace Sys2Proof.Machine

/-- The working state of Shabal (R216): A[0..11], B[0..15], C[0..15] and the block counter W. -/
structure ShabalCtx where
  a : List Word
  b : List Word
  c : List Word
  w : DWord
  deriving DecidableEq, Repr

/-- IV_SH (R216), with W = 1. -/
def shabalIV : ShabalCtx :=
  { a := [ 0x20728dfd, 0x46c0bd53, 0xe782b699, 0x55304632, 0x71b4ef90, 0x0ea9e82c, 0xdbb930f1, 0xfad06b8b,
      0xbe0cae40, 0x8bd14410, 0x76d2adac, 0x28acab7f ]
    b := [ 0xc1099cb7, 0x07b385f3, 0xe7442c26, 0xcc8ad640, 0xeb6f56c7, 0x1ea81aa9, 0x73b9d314, 0x1de85d08,
      0x48910a5a, 0x893b22db, 0xc5a0df44, 0xbbc4324e, 0x72d2f240, 0x75941d99, 0x6d8bde82, 0xa1a7502b ]
    c := [ 0xd9bf68d1, 0x58bad750, 0x56028cb2, 0x8134f359, 0xb5d469d8, 0x941a8cc2, 0x418b2a6e, 0x04052780,
      0x7f07d787, 0x5194358f, 0x3c60d665, 0xbe97d79a, 0x950c3434, 0xaed9a06d, 0x2537dc8d, 0x7cdb5969 ]
    w := 1 }

/-- XorW (R217). -/
def shabalXorW (s : ShabalCtx) : ShabalCtx :=
  { s with a := (s.a.set 0 (nth s.a 0 ^^^ s.w.setWidth 32)).set 1 (nth s.a 1 ^^^ (s.w >>> 32).setWidth 32) }

/-- Step n = i + 16j of the loop of ShabalP (R217). -/
def shabalStep (m : List Word) (s : ShabalCtx) (n : Nat) : ShabalCtx :=
  let i := n % 16
  let k := n % 12
  let km := (n + 11) % 12
  let ak := ((nth s.a k ^^^ (5#32 * (nth s.a km).rotateLeft 15) ^^^ nth s.c ((24 - i) % 16)) * 3#32)
    ^^^ nth s.b ((i + 13) % 16) ^^^ (nth s.b ((i + 9) % 16) &&& ~~~ nth s.b ((i + 6) % 16)) ^^^ nth m i
  { s with a := s.a.set k ak, b := s.b.set i (~~~ ((nth s.b i).rotateLeft 1 ^^^ ak)) }

/-- `ShabalP(M)` (R217): the rotation of B, 48 steps, and the 36 additions of C to A. -/
def shabalP (m : List Word) (s : ShabalCtx) : ShabalCtx :=
  let s := { s with b := s.b.map fun (x : Word) => x.rotateLeft 17 }
  let s := (List.range 48).foldl (shabalStep m) s
  { s with a := (List.range 36).foldl (fun a j =>
      a.set (j % 12) (nth a (j % 12) + nth s.c ((j + 3) % 16))) s.a }

/-- The common start of every block (R218): add M to B, XorW, ShabalP. -/
def shabalAdd (m : List Word) (s : ShabalCtx) : ShabalCtx :=
  shabalP m (shabalXorW { s with b := List.zipWith (· + ·) s.b m })

/-- `ShabalBlock(M)` (R218): then subtract M from C, swap B and C and count the block. -/
def shabalBlock (s : ShabalCtx) (m : List Word) : ShabalCtx :=
  let s := shabalAdd m s
  { s with b := List.zipWith (· - ·) s.c m, c := s.b, w := s.w + 1 }

/-- One of the three extra rounds (R218): swap B and C, XorW, ShabalP. -/
def shabalExtra (m : List Word) (s : ShabalCtx) : ShabalCtx :=
  shabalP m (shabalXorW { s with b := s.c, c := s.b })

/-- The padding of R218. -/
def shabalPad (m : Bytes) : Bytes := m ++ 0x80#8 :: zeros (padZeros m.length 64 0)

/-- H_13, Shabal (R218). -/
def hashShabal (m : Bytes) : Bytes :=
  let bs := (blocks 64 (shabalPad m)).map (words32le 16)
  let s := bs.dropLast.foldl shabalBlock shabalIV
  let last := bs.getLastD []
  let s := shabalExtra last (shabalExtra last (shabalExtra last (shabalAdd last s)))
  (List.range 16).flatMap fun i => toLe32 (nth s.b i)

end Sys2Proof.Machine
end

