-- ==== Sys2Proof/Machine/Skein.lean ====
section
/-!
DEFINITION. Machine/Skein.lean: engine 3, Skein-512-512 version 1.3 (spec R181 to R184).
-/

namespace Sys2Proof.Machine

/-- The rotation constants R[d mod 8][j] (R181). -/
def skeinRot : List (List Nat) :=
  [ [46, 36, 19, 37], [33, 27, 14, 42], [17, 49, 36, 39], [44, 9, 54, 56],
    [39, 30, 34, 24], [13, 50, 10, 17], [25, 29, 39, 43], [8, 35, 56, 22] ]

/-- The word permutation π (R181). -/
def skeinPi : List Nat := [2, 1, 4, 7, 6, 5, 0, 3]

/-- The parity constant C240 (R181). -/
def skeinC240 : DWord := 0x1BD11BDAA9FC1A22

/-- Subkey ks(s) (R182), from the nine key words and the three tweak words. -/
def skeinSubkey (k t : List DWord) (s : Nat) : List DWord :=
  tab 8 fun i =>
    let x := nth k ((s + i) % 9)
    if i = 5 then x + nth t (s % 3)
    else if i = 6 then x + nth t ((s + 1) % 3)
    else if i = 7 then x + BitVec.ofNat 64 s
    else x

/-- Round d of Threefish-512 (R182): the subkey every fourth round, MIX, and the word permutation. -/
def skeinRound (k t : List DWord) (v : List DWord) (d : Nat) : List DWord :=
  let v := if d % 4 = 0 then List.zipWith (· + ·) v (skeinSubkey k t (d / 4)) else v
  let f := (List.range 4).flatMap fun j =>
    let y0 := nth v (2 * j) + nth v (2 * j + 1)
    [y0, (nth v (2 * j + 1)).rotateLeft ((skeinRot.getD (d % 8) []).getD j 0) ^^^ y0]
  tab 8 fun i => nth f (skeinPi.getD i 0)

/-- `TF(K, T, P)` (R182): 72 rounds and 19 subkeys. -/
def threefish (k t p : List DWord) : List DWord :=
  let k' := k ++ [k.foldl (· ^^^ ·) skeinC240]
  let t' := t ++ [nth t 0 ^^^ nth t 1]
  List.zipWith (· + ·) ((List.range 72).foldl (skeinRound k' t') p) (skeinSubkey k' t' 18)

/-- One block of UBI (R183): `pos` counts the message bytes up to its end. -/
def ubiBlock (type pos : Nat) (isFirst isLast : Bool) (g : List DWord) (block : Bytes) : List DWord :=
  let tw := pos + type * 2 ^ 120 + (if isFirst then 2 ^ 126 else 0) + (if isLast then 2 ^ 127 else 0)
  let mw := words64le 8 block
  xorWords (threefish g [BitVec.ofNat 64 tw, BitVec.ofNat 64 (tw >>> 64)] mw) mw

/-- The number of 64-byte blocks of UBI's input: at least one (R183). -/
def ubiCount (len : Nat) : Nat := max 1 ((len + 63) / 64)

/-- `UBI(G, M, type)` (R183): the last block is filled with zero bytes. -/
def ubi (g : List DWord) (m : Bytes) (type : Nat) : List DWord :=
  let n := ubiCount m.length
  (chunks 64 n (m ++ zeros (64 * n - m.length))).zipIdx.foldl (fun g (b, i) =>
    ubiBlock type (min m.length (64 * (i + 1))) (i == 0) (i + 1 == n) g b) g

/-- The configuration string CFG (R184): "SHA3", version 1, output length 512 bits. -/
def skeinCfg : Bytes := [0x53#8, 0x48#8, 0x41#8, 0x33#8] ++ toLE 2 1 ++ zeros 2 ++ toLE 8 512 ++ zeros 16

/-- IV_SK, the constant that R184 lists. -/
def skeinIV : List DWord :=
  [ 0x4903adff749c51ce, 0x0d95de399746df03, 0x8fd1934127c79bce, 0x9a255629ff352cb1,
    0x5db62599df6ca7b0, 0xeabe394ca9d5c3f4, 0x991112c71a75b523, 0xae18a40b660fcc33 ]

/-- H_3, Skein (R184): message type 48, output type 63. -/
def hashSkein (m : Bytes) : Bytes :=
  let g := ubi (ubi skeinIV m 48) (zeros 8) 63
  (List.range 8).flatMap fun i => toLe64 (nth g i)

end Sys2Proof.Machine
end

