-- ==== Sys2Proof/Machine/Whirlpool.lean ====
section
/-!
DEFINITION. Machine/Whirlpool.lean: engine 14, Whirlpool (spec R240 to R242). The 8x8 byte matrix is held as its
64-byte string, row by row: K[i][j] is byte 8i + j (R240).
-/

namespace Sys2Proof.Machine

/-- The rows `0_` to `f_` of the S-box SB_W (R240). -/
def whirlRows : List Nat :=
  [ 0x1823c6e887b8014f36a6d2f5796f9152,
    0x60bc9b8ea30c7b351de0d7c22e4bfe57,
    0x157737e59ff04ada58c9290ab1a06b85,
    0xbd5d10f4cb3e0567e427418ba77d95d8,
    0xfbee7c66dd17479eca2dbf07ad5a8333,
    0x6302aa71c81949d9f2e35b889a2632b0,
    0xe90fd580becd3448ff7a905f20681aae,
    0xb454932264f173124008c3ecdba18d3d,
    0x9700cf2b7682d61bb5af6a5045f330ef,
    0x3f55a2ea65ba2fc0de1cfd4d9275068a,
    0xb2e60e1f62d4a896f9c525598472394c,
    0x5e78388cd1a5e261b3219c1e43c7fc04,
    0x51996d0dfadf7e243babce118f4eb7eb,
    0x3c8194f7b9132cd3e76ec40356447fa9,
    0x2abbc153dc0b9d6c3174f646ac8914e1,
    0x163a690970b6d0edcc4298a4285cf886 ]

/-- `SB_W` (R240). -/
def sbW (x : Byte) : Byte := tableByte whirlRows x

/-- π of R241: column j moves down j rows. -/
def whirlPi (a : Bytes) : Bytes := tab 64 fun k => nth a (8 * ((k / 8 + 8 - k % 8) % 8) + k % 8)

/-- θ of R241 on one row. -/
def whirlTheta (row : Bytes) : Bytes :=
  tab 8 fun j => (List.range 8).foldl (fun acc k =>
    acc ^^^ gmul 0x11D (nth row k) (nth [1, 1, 4, 1, 8, 5, 2, 9] ((j + 8 - k) % 8))) 0#8

/-- `WRound(A, Kr)` (R241). -/
def whirlRound (a kr : Bytes) : Bytes :=
  xorBytes ((chunks 8 8 (whirlPi (a.map sbW))).flatMap whirlTheta) kr

/-- The round constant RC_r, r = 1..10 (R241): row 0 from the S-box, every other row 0. -/
def whirlRC (r : Nat) : Bytes := (tab 8 fun i => sbW (BitVec.ofNat 8 (8 * (r - 1) + i))) ++ zeros 56

/-- `WCipher(K, P)` (R242), the key and the state carried together. -/
def whirlCipher (k p : Bytes) : Bytes :=
  ((List.range 10).foldl (fun (ks : Bytes × Bytes) r =>
    let k := whirlRound ks.1 (whirlRC (r + 1))
    (k, whirlRound ks.2 k)) (k, xorBytes p k)).2

/-- The padding of R242: the bit length in 32 bytes, big-endian. -/
def whirlPad (m : Bytes) : Bytes :=
  m ++ 0x80#8 :: zeros (padZeros m.length 64 32) ++ toBE 32 (8 * m.length)

/-- H_14, Whirlpool (R242). -/
def hashWhirlpool (m : Bytes) : Bytes :=
  let h := (blocks 64 (whirlPad m)).foldl (fun h b => xorBytes (xorBytes (whirlCipher h b) h) b) (zeros 64)
  tab 64 fun i => nth h i

end Sys2Proof.Machine
end

