-- ==== Sys2Proof/Machine/Engines.lean ====
section
/-!
DEFINITION. Machine/Engines.lean: the engine functions H_0 to H_16 (spec R15, R160).
-/

namespace Sys2Proof

/-- A set of engine functions, one for each engine (R15); the cascade is written over any such set. -/
abbrev EngineSet := Engine → Bytes → Bytes

/-- `H_e(m)` (R15): twelve engines in full, and the five named parameters of R9. -/
def Engine.hash : EngineSet
  | .blake => Machine.hashBlake
  | .bmw => Machine.hashBmw
  | .groestl => Machine.hashGroestl
  | .skein => Machine.hashSkein
  | .jh => Machine.hashJh
  | .keccak => Machine.hashKeccak
  | .luffa => fun m => (Config.luffa m).toList
  | .cubehash => Machine.hashCubeHash
  | .shavite => fun m => (Config.shavite m).toList
  | .simd => fun m => (Config.simd m).toList
  | .echo => Machine.hashEcho
  | .hamsi => fun m => (Config.hamsi m).toList
  | .fugue => fun m => (Config.fugue m).toList
  | .shabal => Machine.hashShabal
  | .whirlpool => Machine.hashWhirlpool
  | .sha512 => Machine.hashSha512
  | .haval => Machine.hashHaval

end Sys2Proof
end

