-- ==== Sys2Proof/Machine/EngineCommands.lean ====
section
/-!
DEFINITION. Machine/EngineCommands.lean: the meanings of NOP, EINIT, EABSORB and EFINAL (spec R139 to R142). A command
whose ENG names no engine completes with BADENG (R302), as the decoder also says (R105).
-/

namespace Sys2Proof.Machine

/-- NOP (R139). -/
def execNop (s : State) : Host.Outcome State Fault Refusal := .next (finish {} s)

/-- EINIT e (R140): `S[e] <- ε`. -/
def execEinit (eng : BitVec 5) (s : State) : Host.Outcome State Fault Refusal :=
  match engineOf? eng with
  | none => .next (raise .badEng s)
  | some e => .next (finish { msg := some (e, []) } s)

/-- EABSORB e, off, len (R141): `S[e] <- S[e] || DBUF[off : off + len)`, after the two RANGE checks. -/
def execEabsorb (eng : BitVec 5) (off len : BitVec 8) (s : State) : Host.Outcome State Fault Refusal :=
  match engineOf? eng with
  | none => .next (raise .badEng s)
  | some e =>
    if !dbufFits off.toNat len.toNat then .next (raise .range s)
    else if !msgFits s e len.toNat then .next (raise .range s)
    else .next (finish { msg := some (e, s.msg e ++ s.dbuf off.toNat len.toNat) } s)

/-- EFINAL e, off (R142): `DBUF[off : off + N_e) <- H_e(S[e])` and `S[e] <- ε`, after the RANGE check. -/
def execEfinal (eng : BitVec 5) (off : BitVec 8) (s : State) : Host.Outcome State Fault Refusal :=
  match engineOf? eng with
  | none => .next (raise .badEng s)
  | some e =>
    if !dbufFits off.toNat e.digestLen then .next (raise .range s)
    else .next (finish { dbuf := some (off.toNat, e.hash (s.msg e)), msg := some (e, []) } s)

end Sys2Proof.Machine
end

