-- ==== Sys2Proof/Machine/Orchestrator.lean ====
section
/-!
DEFINITION. Machine/Orchestrator.lean: the cascade orchestrator and the meaning of XEVAN (spec R270 to R288). The
sequencer runs stage by stage over its private contexts, its working buffer and its position; the cascade as one
function (R288) stands after it.
-/

namespace Sys2Proof.Machine

/-- The bytes a stage absorbs (R273, R278): the input at stage 1 of pass 1, else the whole working buffer. -/
def stageInput (p : Pass) (e : Engine) (x wbuf : Bytes) : Bytes :=
  if p = .first ∧ e = .blake then x else wbuf

/-- The width that a stage's absorb must have (R287). -/
def stageWidth (p : Pass) (e : Engine) (n : Nat) : Nat :=
  if p = .first ∧ e = .blake then n else 128

/-- A digest written over the front of the working buffer; the bytes after it stay (R276). -/
def overwriteFront (buf d : Bytes) : Bytes := d ++ buf.drop d.length

/-- `C[e] <- m` (R48). -/
def Cascade.setCtx (c : Cascade) (e : Engine) (m : Bytes) : Cascade :=
  { c with ctx := c.ctx.set e.num.val m e.num.isLt }

/-- One stage of a pass (R270, R273 to R276): initialize C[e], absorb the stage's input, finalize into the front of
WBUF, which leaves C[e] initialized (R130). None where the absorbed string has not the width of R287. -/
def runStage (H : EngineSet) (n : Nat) (x : Bytes) (p : Pass) (e : Engine) (c : Cascade) : Option Cascade :=
  let src := stageInput p e x c.wbuf
  if src.length = stageWidth p e n then
    let c1 := { c with pass := p, stage := e.num.val + 1 }.setCtx e []
    let c2 := c1.setCtx e (c1.ctx[e.num] ++ src)
    let d := H e c2.ctx[e.num]
    some ({ c2 with wbuf := overwriteFront c2.wbuf d }.setCtx e [])
  else none

/-- The stages of a pass, in order (R275). -/
def runStages (H : EngineSet) (n : Nat) (x : Bytes) (p : Pass) : List Engine → Cascade → Option Cascade
  | [], c => some c
  | e :: es, c =>
    match runStage H n x p e c with
    | none => none
    | some c' => runStages H n x p es c'

/-- Between the passes: `WBUF[32:128) <- zeros(96)` (R277). -/
def zeroUpper (c : Cascade) : Cascade := { c with wbuf := c.wbuf.take 32 ++ zeros 96 }

/-- The whole cascade (R270): the zeroed working buffer (R271), pass 1, the zeroing, pass 2. None where a stage finds
the invariant of R287 broken. -/
def runCascade (H : EngineSet) (n : Nat) (x : Bytes) (c : Cascade) : Option Cascade :=
  match runStages H n x .first Engine.all { c with wbuf := zeros 128 } with
  | none => none
  | some c1 => runStages H n x .second Engine.all (zeroUpper c1)

/-- XEVAN (R270): the checks of R284, then the cascade over INBUF[0:n); its first 32 bytes go to DIGEST (R279). A broken
invariant completes with INTERNAL (R287, R305). -/
def execXevan (s : State) : Host.Outcome State Fault Refusal :=
  if s.inlen.toNat > inbufSize then .next (raise .range s)
  else if s.inlen.toNat < inputLen s.variant then .next (raise .precond s)
  else
    match runCascade Engine.hash (inputLen s.variant) (s.inbuf (inputLen s.variant)) s.casc with
    | none => .next (raise .internal s)
    | some c => .next (finish { digest := some (c.wbuf.take 32) } { s with casc := c })

/-- `stage(e, B) = H_e(B) || B[N_e:128)` (R288). -/
def stageFn (H : EngineSet) (e : Engine) (b : Bytes) : Bytes := H e b ++ b.drop e.digestLen

/-- `pass1(x)` (R288): `H_0(x) || zeros(64)`, then stage(1) to stage(16). -/
def pass1Fn (H : EngineSet) (x : Bytes) : Bytes :=
  (Engine.all.drop 1).foldl (fun b e => stageFn H e b) (H .blake x ++ zeros 64)

/-- `mid(x)` (R288). -/
def midFn (H : EngineSet) (x : Bytes) : Bytes := (pass1Fn H x).take 32 ++ zeros 96

/-- `pass2(B)` (R288): stage(0) to stage(16). -/
def pass2Fn (H : EngineSet) (b : Bytes) : Bytes := Engine.all.foldl (fun b e => stageFn H e b) b

/-- `xevan(x)` (R288), over a set of engine functions. -/
def xevanFn (H : EngineSet) (x : Bytes) : Bytes := (pass2Fn H (midFn H x)).take 32

end Sys2Proof.Machine
end

