-- ==== Sys2Proof/Machine/Dispatch.lean ====
section
/-!
DEFINITION. Machine/Dispatch.lean: the meaning of every command, one arm each (spec R133: "run the rule of mnemonic r").
-/

namespace Sys2Proof.Machine

def exec (i : Instr) (s : State) : Host.Outcome State Fault Refusal :=
  match i with
  | .nop => Sys2Proof.Machine.execNop s
  | .xevan => Sys2Proof.Machine.execXevan s
  | .einit eng => Sys2Proof.Machine.execEinit eng s
  | .eabsorb eng off len => Sys2Proof.Machine.execEabsorb eng off len s
  | .efinal eng off => Sys2Proof.Machine.execEfinal eng off s

end Sys2Proof.Machine
end

