-- ==== Sys2Proof/Machine/Fetch.lean ====
section
/-!
DEFINITION. Machine/Fetch.lean: where the core's step finds its command, and whose turn it is (spec R50, R131, R346).
-/

namespace Sys2Proof.Machine

/-- The command of the core's step: the word in SEQ.CUR, decoded (R133). -/
def fetch (s : State) : Decoded := decode s.seqCur

/-- The result code by which a word that does not decode completes (R105, R301, R302). -/
def decodeErrorCode : DecodeError → ResultCode
  | .illegal => .illegal
  | .badEng => .badEng

/-- The core's turn (R131, R346): a command runs, and its latency is over, or no host access is left to come before
the core step. -/
def coreTurn (s : State) : Bool := s.busy && (s.latLeft == 0 || s.inbox.isEmpty)

/-- The next event of the outside world taken off the pending ones; one host step of the latency has passed (R346). -/
def takeEvent (rest : List HostEvent) (s : State) : State := { s with inbox := rest, latLeft := s.latLeft - 1 }

/-- The state right after the issue of the word c, its latency over: what `State.withFetchWord` makes. -/
def issued (c : Word) (s : State) : State := { s with seqCur := c, busy := true, done := false, latLeft := 0 }

end Sys2Proof.Machine
end

