-- ==== Sys2Proof/Machine/Step.lean ====
section
/-!
DEFINITION. Machine/Step.lean: one step of the block (spec R131, R133, R346): the core completes the running command,
or the next bus access is served. With no command running and no access pending the block is idle (R318).
-/

namespace Sys2Proof.Machine

/-- The core step (R133): decode the word in SEQ.CUR, complete with the decoder's error, or run the command. -/
def coreStep (s : State) : Host.Outcome State Fault Refusal :=
  match fetch s with
  | .error e => .next (raise (decodeErrorCode e) s)
  | .instr i => exec i s

/-- One atomic step of one of the two agents (R131, R346). -/
def step (s : State) : Host.Outcome State Fault Refusal :=
  if coreTurn s then coreStep s
  else
    match s.inbox with
    | [] => .next s
    | ev :: rest => hostStep ev (takeEvent rest s)

/-- The state in which the next step runs the command word w (of nbits bits): the word has just been issued, as a host
write to CMD issues it (R132), and its latency is over. -/
def State.withFetchWord (s : State) (nbits w : Nat) : State := issued (BitVec.ofNat 32 (w % 2 ^ nbits)) s

end Sys2Proof.Machine
end

