-- ==== Sys2Proof/Safety.lean ====
section
/-!
DEFINITION. Safety.lean: what a good state and a good outcome are, in the terms the claims use (spec R34, R46, R49,
R70, R287, R305).
-/

namespace Sys2Proof.Machine

/-- The value invariants of STATUS (R34): BUSY excludes DONE, and FATAL goes with an idle block and ERR = 15. -/
def State.StatusOk (s : State) : Prop :=
  (s.busy = true → s.done = false) ∧ (s.fatal = true → s.busy = false ∧ s.err = .internal)

/-- The buffers' bytes are in canonical form and inside their windows (R70). -/
def State.MemOk (s : State) : Prop := Memory.wf s.mem = true ∧ Memory.inWindows s.mem = true

/-- No message is longer than MAXMSG (R46). -/
def State.MsgsOk (s : State) : Prop := ∀ e : Engine, (s.msg e).length ≤ Config.maxMsg

/-- The private state at rest: WBUF holds 128 bytes (R49) and no result is staged (R50). -/
def State.PrivateOk (s : State) : Prop := s.casc.wbuf.length = 128 ∧ s.seqRes = {}

/-- The invariant of the block: it holds at reset, and every step keeps it. -/
def State.Inv (s : State) : Prop := s.StatusOk ∧ s.MemOk ∧ s.MsgsOk ∧ s.PrivateOk

/-- The outcome is a next state, and it has the property P. -/
def GivesNext (o : Host.Outcome State Fault Refusal) (P : State → Prop) : Prop := ∃ t, o = .next t ∧ P t

/-- The state s with only the STATUS fields of a completion with an error code changed (R133, R307). -/
def State.errorState (s : State) (code : ResultCode) : State :=
  { s with busy := false, done := true, err := code }

/-- The state s after a normal completion that had nothing to commit: only STATUS changes, and nothing stays staged
(R133). -/
def State.okState (s : State) : State := { s with busy := false, done := true, err := .ok, seqRes := {} }

/-- The block as R330 (and R53) leaves it: no command runs, every register the host can read and every byte of a buffer
is zero, every message is empty, and `irq` is 0. It says nothing of the private cascade state, which has no defined
value there. -/
def State.AtReset (s : State) : Prop :=
  s.irqEn = false ∧ s.busy = false ∧ s.done = false ∧ s.drop = false ∧ s.fatal = false ∧ s.err = .ok ∧
  s.statusWord = 0#32 ∧ s.ctrlWord = 0#32 ∧ s.variant = 0#32 ∧ s.inlen = 0#8 ∧ (∀ a : Nat, Memory.read s.mem a = 0x00#8) ∧
  (∀ e : Engine, s.msg e = []) ∧ s.irq = false

/-- An event that resets the block: the platform's reset input (R330), or an accepted write to CTRL with SRST = 1
(R32, R332). -/
def HostEvent.IsReset (ev : HostEvent) : Prop :=
  ev = .reset ∨ ∃ v : BitVec 64, v[1] = true ∧ ev = .access (Config.base + 0x004) .bits32 (.write v)

/-- A set of engine functions has the digest widths of R2 (R15). -/
def EngineWidths (H : EngineSet) : Prop := ∀ (e : Engine) (m : Bytes), (H e m).length = e.digestLen

/-- The reading of the buffer rule that R282 compares with R276: every digest is filled up with zeros to 128 bytes. -/
def padStageFn (H : EngineSet) (e : Engine) (b : Bytes) : Bytes := H e b ++ zeros (128 - e.digestLen)

/-- The cascade under that reading (R282). -/
def xevanPadFn (H : EngineSet) (x : Bytes) : Bytes :=
  let p1 := (Engine.all.drop 1).foldl (fun b e => padStageFn H e b) (padStageFn H .blake x)
  (Engine.all.foldl (fun b e => padStageFn H e b) (p1.take 32 ++ zeros 96)).take 32

/-- The states s and t hold the same inputs of a command: VARIANT, INLEN and every byte of the buffers (R134, R135). -/
def SameInputs (s t : State) : Prop := t.variant = s.variant ∧ t.inlen = s.inlen ∧ t.mem = s.mem

end Sys2Proof.Machine
end

