-- ==== Sys2Proof/Certificates/Slice0/Obligations.lean ====
section
/-!
DEFINITION. Certificates/Slice0/Obligations.lean: the statements about the XEVAN cascade block, each for every state
and operand unless it says otherwise. Where a command completes normally its statement says so as an equation with
the next state; `State.okState` and `State.errorState` change STATUS (and the empty staging area) alone.
-/

open Sys2Proof Sys2Proof.Machine

/-! ## Encoding (spec/30_encoding.md) -/

/-- R101, with the last clause from R100: each field is the bits the format gives it, and a word with RSV = 0 is the ∨
of its shifted fields. -/
def Obligations.FieldsAreTheBitsOfTheFormat : Prop :=
  ∀ c : Word,
    (fieldOpc c).toNat = c.toNat % 2 ^ 8 ∧
    (fieldEng c).toNat = c.toNat / 2 ^ 8 % 2 ^ 5 ∧
    (fieldRsv c).toNat = c.toNat / 2 ^ 13 % 2 ^ 3 ∧
    (fieldOff c).toNat = c.toNat / 2 ^ 16 % 2 ^ 8 ∧
    (fieldLen c).toNat = c.toNat / 2 ^ 24 % 2 ^ 8 ∧
    (fieldRsv c = 0#3 →
      c = (fieldOpc c).setWidth 32 ||| ((fieldEng c).setWidth 32 <<< 8) ||| ((fieldOff c).setWidth 32 <<< 16)
            ||| ((fieldLen c).setWidth 32 <<< 24))

/-- Decoding the word of any well-formed command gives the command back, whatever its operands. -/
def Obligations.DecodeOfEncodeIsTheCommand : Prop :=
  ∀ i : Instr, i.wellFormed = true → decode (encode i) = .instr i

/-- A word that decodes to a command is that command's only word, and the command is well formed. -/
def Obligations.EncodeOfDecodeIsTheWord : Prop :=
  ∀ (c : Word) (i : Instr), decode c = .instr i → encode i = c ∧ i.wellFormed = true

/-- From R102: at most one row of the opcode map matches a given word. -/
def Obligations.AtMostOneRowMatches : Prop :=
  ∀ (c : Word) (r r' : OpcodeRow), r ∈ opcodeMap → r' ∈ opcodeMap → c &&& r.maskBits = r.matchBits →
    c &&& r'.maskBits = r'.matchBits → r = r'

/-- R103: exactly the words with a reserved opcode, or with a must-be-zero field that is not zero, decode to ILLEGAL;
the core step on such a word only completes with ILLEGAL; and no word but 0 is a NOP. -/
def Obligations.ReservedEncodingsAreIllegal : Prop :=
  (∀ c : Word, decode c = .error .illegal ↔
    (fieldOpc c ≠ 0x00#8 ∧ fieldOpc c ≠ 0x01#8 ∧ fieldOpc c ≠ 0x10#8 ∧ fieldOpc c ≠ 0x11#8 ∧ fieldOpc c ≠ 0x12#8) ∨
    ((fieldOpc c = 0x00#8 ∨ fieldOpc c = 0x01#8) ∧
      (fieldEng c ≠ 0#5 ∨ fieldRsv c ≠ 0#3 ∨ fieldOff c ≠ 0#8 ∨ fieldLen c ≠ 0#8)) ∨
    (fieldOpc c = 0x10#8 ∧ (fieldRsv c ≠ 0#3 ∨ fieldOff c ≠ 0#8 ∨ fieldLen c ≠ 0#8)) ∨
    (fieldOpc c = 0x11#8 ∧ fieldRsv c ≠ 0#3) ∨
    (fieldOpc c = 0x12#8 ∧ (fieldRsv c ≠ 0#3 ∨ fieldLen c ≠ 0#8))) ∧
  (∀ s : State, decode s.seqCur = .error .illegal → coreStep s = .next (s.errorState .illegal)) ∧
  (∀ c : Word, decode c = .instr .nop ↔ c = 0x00000000#32)

/-- R104: a word that matches the row of EINIT, EABSORB or EFINAL decodes to BADENG exactly when its ENG is 17 to 31;
the ILLEGAL check comes first, and the core step on a BADENG word only completes with BADENG, whatever its other
operands. -/
def Obligations.EngineNumbersAbove16AreBadEng : Prop :=
  (∀ c : Word, decode c = .error .badEng ↔
    decode c ≠ .error .illegal ∧ (fieldOpc c = 0x10#8 ∨ fieldOpc c = 0x11#8 ∨ fieldOpc c = 0x12#8) ∧
      17 ≤ (fieldEng c).toNat) ∧
  (∀ s : State, decode s.seqCur = .error .badEng → coreStep s = .next (s.errorState .badEng))

/-- R107: the worked words of the encoding examples, the error words among them, and the encoder's words. -/
def Obligations.EncodingExamplesDecodeAsListed : Prop :=
  decode 0x00000000 = .instr .nop ∧
  decode 0x00000001 = .instr .xevan ∧
  decode 0x00000F10 = .instr (.einit 15) ∧
  decode 0x03000F11 = .instr (.eabsorb 15 0 3) ∧
  decode 0x00400F12 = .instr (.efinal 15 64) ∧
  decode 0x00001010 = .instr (.einit 16) ∧
  decode 0x80000011 = .instr (.eabsorb 0 0 128) ∧
  decode 0x00000012 = .instr (.efinal 0 0) ∧
  decode 0x80000111 = .instr (.eabsorb 1 0 128) ∧
  decode 0x00000002 = .error .illegal ∧
  decode 0x00000101 = .error .illegal ∧
  decode 0x00002010 = .error .illegal ∧
  decode 0x01000012 = .error .illegal ∧
  decode 0x00001110 = .error .badEng ∧
  decode 0x00001F11 = .error .badEng ∧
  encode .nop = 0x00000000 ∧ encode .xevan = 0x00000001 ∧ encode (.einit 15) = 0x00000F10 ∧
  encode (.eabsorb 15 0 3) = 0x03000F11 ∧ encode (.efinal 15 64) = 0x00400F12 ∧ encode (.einit 16) = 0x00001010 ∧
  encode (.eabsorb 0 0 128) = 0x80000011 ∧ encode (.efinal 0 0) = 0x00000012 ∧
  encode (.eabsorb 1 0 128) = 0x80000111

/-! ## The steps of the two agents (spec/40_engine_commands.md, spec/70_reset_and_hazards.md) -/

/-- When it is the core's turn (a command runs, and its latency is over or no access is pending: the model's rendering of
LAT, notes/assumptions/4.md), the step is the core step: the meaning of the command that SEQ.CUR decodes to, or the
completion with the decoder's error. -/
def Obligations.StepRunsTheDecodedCommand : Prop :=
  ∀ s : State, s.busy = true → (s.latLeft = 0 ∨ s.inbox = []) →
    (∀ i : Instr, decode s.seqCur = .instr i → step s = exec i s) ∧
    (decode s.seqCur = .error .illegal → step s = .next (s.errorState .illegal)) ∧
    (decode s.seqCur = .error .badEng → step s = .next (s.errorState .badEng))

/-- Otherwise the step serves the next access of the outside world, and with none pending the idle block stays as it
is; an access inside the block's 0x400 bytes is a bus access at its offset from BASE, one outside them is not the
block's, and the platform's reset resets the block. The pending accesses, the count of host steps and the fault are the
model's choices (notes/assumptions/2.md, 4.md and 6.md). -/
def Obligations.StepServesTheNextAccess : Prop :=
  (∀ (s : State) (ev : HostEvent) (rest : List HostEvent), s.inbox = ev :: rest →
    (s.busy = false ∨ s.latLeft ≠ 0) →
    step s = hostStep ev { s with inbox := rest, latLeft := s.latLeft - 1 }) ∧
  (∀ s : State, s.inbox = [] → s.busy = false → step s = .next s) ∧
  (∀ (s : State) (off : BitVec 10) (w : Width) (d : Dir),
    hostStep (.access (Config.base + off.toNat) w d) s = .next (busAccess off w d s)) ∧
  (∀ (s : State) (addr : Nat) (w : Width) (d : Dir),
    addr < Config.base ∨ Config.base + 0x400 ≤ addr → hostStep (.access addr w d) s = .fault (.outsideBlock addr)) ∧
  (∀ s : State, hostStep .reset s = .next (resetBlock s)) ∧
  Config.base % 0x400 = 0

/-- Progress: a running command comes to its core step after at most as many steps as its latency still allows,
unless a reset comes first, which leaves the block in its reset state, or an access outside the block stops the run (the
model's rendering of LAT and of accesses outside the block, notes/assumptions/4.md and 6.md). -/
def Obligations.RunningCommandReachesItsCoreStep : Prop :=
  ∀ s : State, s.busy = true → ∃ n ≤ s.latLeft,
    (∃ addr, Host.Core.run core n s = .fault (.outsideBlock addr)) ∨
    (∃ t : State, Host.Core.run core n s = .next t ∧ (t.AtReset ∨ (coreTurn t = true ∧ t.seqCur = s.seqCur)))

/-- The word `State.withFetchWord` stores is the one the very next step decodes and runs (the model's way to issue a word
without a host, notes/assumptions/1.md). -/
def Obligations.FetchWordRunsNext : Prop :=
  ∀ (s : State) (w : Nat) (i : Instr), decode (BitVec.ofNat 32 (w % 2 ^ 32)) = .instr i →
    decodeTableWord 32 w = some i ∧
    step (s.withFetchWord 32 w) = exec i (s.withFetchWord 32 w)

/-- No result of a command depends on LAT or on the accesses still to come: a command run with another latency count,
another number of draws, other pending accesses and another last answer gives the same next state but for these. Those
four are the model's own fields (notes/assumptions/2.md, 4.md and 11.md). -/
def Obligations.ResultsDoNotDependOnTiming : Prop :=
  ∀ (i : Instr) (s t : State) (q : List HostEvent) (l d : Nat) (r : Option Response), exec i s = .next t →
    exec i { s with inbox := q, latLeft := l, draws := d, resp := r } =
      .next { t with inbox := q, latLeft := l, draws := d, resp := r }

/-- The latency drawn at an issue depends on lengths, VARIANT and INLEN, and on no byte of a buffer or a message (the
latency is the model's rendering of LAT, notes/assumptions/4.md). -/
def Obligations.LatencyDoesNotDependOnData : Prop :=
  ∀ (c : Word) (s s' : State), s.busy = false → s.fatal = false → s'.busy = false → s'.fatal = false →
    s'.draws = s.draws → s'.variant = s.variant → s'.inlen = s.inlen →
    (∀ e : Engine, (s'.msg e).length = (s.msg e).length) →
    (issue c s').latLeft = (issue c s).latLeft

/-! ## The commands (spec/40_engine_commands.md section 2) -/

/-- R139: NOP's only word is 0, any other word with its opcode is ILLEGAL; NOP completes with OK and changes nothing
else, and with IRQ_EN = 1 it raises the interrupt. -/
def Obligations.NopOnlyCompletes : Prop :=
  (∀ c : Word, decode c = .instr .nop ↔ c = 0x00000000#32) ∧
  (∀ c : Word, fieldOpc c = 0x00#8 → c ≠ 0x00000000#32 → decode c = .error .illegal) ∧
  (∀ s : State, exec .nop s = .next s.okState) ∧
  (∀ s : State, s.irqEn = true → s.drop = false → s.fatal = false →
    GivesNext (exec .nop s) fun t => t.statusWord = 0x00000002#32 ∧ t.irq = true)

/-- R140: EINIT's words; S[e] becomes empty whatever it held, no other message and no byte of memory changes, a second
EINIT changes nothing more; and ENG 17 to 31 gives BADENG. -/
def Obligations.EinitEmptiesTheMessage : Prop :=
  (∀ c : Word, fieldOpc c = 0x10#8 →
    (¬ (fieldRsv c = 0#3 ∧ fieldOff c = 0#8 ∧ fieldLen c = 0#8) → decode c = .error .illegal) ∧
    (fieldRsv c = 0#3 ∧ fieldOff c = 0#8 ∧ fieldLen c = 0#8 →
      (16 < (fieldEng c).toNat → decode c = .error .badEng) ∧
      ((fieldEng c).toNat ≤ 16 → decode c = .instr (.einit (fieldEng c))))) ∧
  (∀ (s : State) (e : Engine), GivesNext (exec (.einit e.field) s) fun t =>
    t = (s.setMsg e []).okState ∧ t.msg e = [] ∧ (∀ e' : Engine, e' ≠ e → t.msg e' = s.msg e') ∧
    (∀ a : Nat, Memory.read t.mem a = Memory.read s.mem a) ∧ exec (.einit e.field) t = .next t) ∧
  (∀ (s : State) (eng : BitVec 5), 16 < eng.toNat → exec (.einit eng) s = .next (s.errorState .badEng))

/-- R141: EABSORB's words; when the bytes lie in DBUF and the message stays within MAXMSG, S[e] grows by
DBUF[off : off + len) and nothing else changes but STATUS; else RANGE and nothing else; a zero length is a no-op for
off up to 128; two absorbs of adjacent bytes are one absorb of both; ENG 17 to 31 gives BADENG. -/
def Obligations.EabsorbAppendsDataBufferBytes : Prop :=
  (∀ c : Word, fieldOpc c = 0x11#8 →
    (fieldRsv c ≠ 0#3 → decode c = .error .illegal) ∧
    (fieldRsv c = 0#3 →
      (16 < (fieldEng c).toNat → decode c = .error .badEng) ∧
      ((fieldEng c).toNat ≤ 16 → decode c = .instr (.eabsorb (fieldEng c) (fieldOff c) (fieldLen c))))) ∧
  (∀ (s : State) (e : Engine) (off len : BitVec 8),
    (off.toNat + len.toNat ≤ 128 ∧ (s.msg e).length + len.toNat ≤ 2 ^ 61 - 1 →
      GivesNext (exec (.eabsorb e.field off len) s) fun t =>
        t = (s.setMsg e (s.msg e ++ Memory.readBytes s.mem (0x200 + off.toNat) len.toNat)).okState ∧
        t.msg e = s.msg e ++ Memory.readBytes s.mem (0x200 + off.toNat) len.toNat ∧
        (∀ e' : Engine, e' ≠ e → t.msg e' = s.msg e') ∧
        (∀ a : Nat, Memory.read t.mem a = Memory.read s.mem a)) ∧
    (128 < off.toNat + len.toNat ∨ 2 ^ 61 - 1 < (s.msg e).length + len.toNat →
      exec (.eabsorb e.field off len) s = .next (s.errorState .range))) ∧
  (∀ (s : State) (e : Engine) (off : BitVec 8), off.toNat ≤ 128 → (s.msg e).length ≤ 2 ^ 61 - 1 →
    exec (.eabsorb e.field off 0) s = .next s.okState) ∧
  (∀ (s : State) (e : Engine) (off len len' : BitVec 8), off.toNat + len.toNat + len'.toNat ≤ 128 →
    (s.msg e).length + len.toNat + len'.toNat ≤ 2 ^ 61 - 1 →
    GivesNext (exec (.eabsorb e.field off len) s) fun t =>
      exec (.eabsorb e.field (off + len) len') t = exec (.eabsorb e.field off (len + len')) s) ∧
  (∀ (s : State) (eng : BitVec 5) (off len : BitVec 8), 16 < eng.toNat →
    exec (.eabsorb eng off len) s = .next (s.errorState .badEng))

/-- R142: EFINAL's words; when the digest lies in DBUF, DBUF[off : off + N_e) becomes H_e(S[e]), S[e] becomes empty, and
no other byte and no other message changes; else RANGE and nothing else; ENG 17 to 31 gives BADENG; and the worked
SHA-512 digest of "abc". -/
def Obligations.EfinalWritesTheDigest : Prop :=
  (∀ c : Word, fieldOpc c = 0x12#8 →
    (¬ (fieldRsv c = 0#3 ∧ fieldLen c = 0#8) → decode c = .error .illegal) ∧
    (fieldRsv c = 0#3 ∧ fieldLen c = 0#8 →
      (16 < (fieldEng c).toNat → decode c = .error .badEng) ∧
      ((fieldEng c).toNat ≤ 16 → decode c = .instr (.efinal (fieldEng c) (fieldOff c))))) ∧
  (∀ (s : State) (e : Engine) (off : BitVec 8),
    (off.toNat + e.digestLen ≤ 128 →
      GivesNext (exec (.efinal e.field off) s) fun t =>
        t = ((s.writeDbuf off.toNat (e.hash (s.msg e))).setMsg e []).okState ∧
        t.dbuf off.toNat e.digestLen = e.hash (s.msg e) ∧
        (∀ a : Nat, ¬ (0x200 + off.toNat ≤ a ∧ a < 0x200 + off.toNat + e.digestLen) →
          Memory.read t.mem a = Memory.read s.mem a) ∧
        t.msg e = [] ∧ (∀ e' : Engine, e' ≠ e → t.msg e' = s.msg e')) ∧
    (128 < off.toNat + e.digestLen → exec (.efinal e.field off) s = .next (s.errorState .range))) ∧
  (∀ (s : State) (eng : BitVec 5) (off : BitVec 8), 16 < eng.toNat →
    exec (.efinal eng off) s = .next (s.errorState .badEng)) ∧
  (∀ s : State, s.msg .sha512 = [0x61#8, 0x62#8, 0x63#8] →
    GivesNext (exec (.efinal 15 0) s) fun t =>
      t.dbuf 0 8 = [0xdd#8, 0xaf#8, 0x35#8, 0xa1#8, 0x93#8, 0x61#8, 0x7a#8, 0xba#8] ∧
      t.dbuf 60 4 = [0xa5#8, 0x4c#8, 0xa4#8, 0x9f#8])

/-- From R137: a command on engine e leaves every other message alone, and what it leaves in S[e], in memory and in STATUS
does not depend on the other messages, on DIGEST, on INBUF or on XEVAN's inputs, but only on S[e] and DBUF. -/
def Obligations.EnginesAreIndependent : Prop :=
  ∀ (i : Instr) (e : Engine),
    (i = .einit e.field ∨ (∃ off len, i = .eabsorb e.field off len) ∨ ∃ off, i = .efinal e.field off) →
    (∀ (s : State) (e' : Engine), e' ≠ e → GivesNext (exec i s) fun t => t.msg e' = s.msg e') ∧
    (∀ s s' : State, s'.msg e = s.msg e → (∀ off len, off + len ≤ 128 → s'.dbuf off len = s.dbuf off len) →
      GivesNext (exec i s) fun t => GivesNext (exec i s') fun t' =>
        t'.err = t.err ∧ t'.msg e = t.msg e ∧ ∀ off len, off + len ≤ 128 → t'.dbuf off len = t.dbuf off len)

/-- One cascade stage replayed by hand: EINIT e, EABSORB e of all 128 bytes, EFINAL e at 0 turn DBUF into stage(e, DBUF). -/
def Obligations.EngineCommandsReplayAStage : Prop :=
  ∀ (s : State) (e : Engine),
    GivesNext (exec (.einit e.field) s) fun t1 =>
    GivesNext (exec (.eabsorb e.field 0 128) t1) fun t2 =>
    GivesNext (exec (.efinal e.field 0) t2) fun t3 =>
      t3.dbuf 0 128 = e.hash (s.dbuf 0 128) ++ (s.dbuf 0 128).drop e.digestLen ∧ t3.err = .ok ∧
      (∀ e' : Engine, e' ≠ e → t3.msg e' = s.msg e') ∧ t3.msg e = []

/-! ## The cascade (spec/45_orchestrator.md) -/

/-- XEVAN with an accepted INLEN completes with OK; DIGEST becomes xevan(INBUF[0:n)) of R288; no other byte of memory
changes, and of the rest of the state only STATUS and the private cascade state (left open here: notes/assumptions/8.md). -/
def Obligations.XevanWritesTheCascadeDigest : Prop :=
  ∀ s : State, inputLen s.variant ≤ s.inlen.toNat → s.inlen.toNat ≤ 112 →
    GivesNext (exec .xevan s) fun t =>
      t.digest = xevanFn Engine.hash (s.inbuf (inputLen s.variant)) ∧
      (∀ a : Nat, ¬ (0x300 ≤ a ∧ a < 0x320) → Memory.read t.mem a = Memory.read s.mem a) ∧
      t = { s.okState with mem := t.mem, casc := t.casc }

/-- The sequencer computes R288 for every set of engine functions with the right digest widths, from any private state
it finds: no stage finds the width invariant of R287 broken, and WBUF keeps its 128 bytes. -/
def Obligations.SequencerComputesTheCascadeFunction : Prop :=
  ∀ (H : EngineSet) (n : Nat) (x : Bytes) (c : Cascade), EngineWidths H → x.length = n →
    ∃ c' : Cascade, runCascade H n x c = some c' ∧ c'.wbuf.take 32 = xevanFn H x ∧ c'.wbuf.length = 128

/-- R272: n(VARIANT) is 112 for the value 4 of the whole register and 80 for every other value, and XEVAN accepts
exactly the INLEN from n(VARIANT) to 112. -/
def Obligations.VariantSelectsTheInputLength : Prop :=
  (∀ v : Word, (v = 4#32 → inputLen v = 112) ∧ (v ≠ 4#32 → inputLen v = 80)) ∧
  (∀ s : State, GivesNext (exec .xevan s) fun t =>
    (t.err = .ok ↔ (if s.variant = 4#32 then 112 else 80) ≤ s.inlen.toNat ∧ s.inlen.toNat ≤ 112))

/-- R284: INLEN above 112 gives RANGE, and else an INLEN below n(VARIANT) gives PRECOND; neither changes anything but
STATUS. -/
def Obligations.XevanChecksItsInputLength : Prop :=
  ∀ s : State,
    (112 < s.inlen.toNat → exec .xevan s = .next (s.errorState .range)) ∧
    (s.inlen.toNat ≤ 112 → s.inlen.toNat < inputLen s.variant → exec .xevan s = .next (s.errorState .precond))

/-- R280: XEVAN reads and writes no message and no byte of DBUF, and on OK changes nothing that the host can read but
DIGEST and STATUS; on an error it changes STATUS alone. -/
def Obligations.XevanTouchesNeitherMessagesNorDbuf : Prop :=
  (∀ s : State, GivesNext (exec .xevan s) fun t =>
    t.msgs = s.msgs ∧ t.dbuf 0 128 = s.dbuf 0 128 ∧
    (∀ off : Nat, off % 4 = 0 → off < 0x400 → off ≠ 0x008 → ¬ (0x300 ≤ off ∧ off < 0x320) →
      memRead t off = memRead s off) ∧
    t.drop = s.drop ∧ t.fatal = s.fatal ∧ (t.err ≠ .ok → t = s.errorState t.err)) ∧
  (∀ s s' : State, s'.variant = s.variant → s'.inlen = s.inlen → s'.inbuf 112 = s.inbuf 112 →
    s'.digest = s.digest →
    GivesNext (exec .xevan s) fun t => GivesNext (exec .xevan s') fun t' => t'.digest = t.digest ∧ t'.err = t.err)

/-- From R281: at every absorb but the first of pass 1 the upper half of WBUF is zero, and after the pass-1 Haval stage
WBUF[32:64) still holds the SHA-512 stage's digest. -/
def Obligations.UpperHalfIsZeroAtEveryAbsorb : Prop :=
  ∀ (H : EngineSet) (n : Nat) (x : Bytes) (c : Cascade), EngineWidths H → x.length = n →
    (∀ k, 1 ≤ k → k ≤ 17 →
      ∃ c1, runStages H n x .first (Engine.all.take k) { c with wbuf := zeros 128 } = some c1 ∧
        c1.wbuf.length = 128 ∧ c1.wbuf.drop 64 = zeros 64) ∧
    (∃ c16 c17, runStages H n x .first (Engine.all.take 16) { c with wbuf := zeros 128 } = some c16 ∧
      runStages H n x .first Engine.all { c with wbuf := zeros 128 } = some c17 ∧
      slice c17.wbuf 32 32 = slice c16.wbuf 32 32 ∧ (zeroUpper c17).wbuf = c17.wbuf.take 32 ++ zeros 96 ∧
      ∀ k, k ≤ 17 → ∃ c2, runStages H n x .second (Engine.all.take k) (zeroUpper c17) = some c2 ∧
        c2.wbuf.length = 128 ∧ c2.wbuf.drop 64 = zeros 64)

/-- From R282: leaving the bytes after a digest untouched and filling them with zeros give the same DIGEST, for every set of
engine functions with the right digest widths. -/
def Obligations.BufferReadingsGiveTheSameDigest : Prop :=
  ∀ (H : EngineSet) (x : Bytes), EngineWidths H → xevanFn H x = xevanPadFn H x

/-- R283: DIGEST depends on INBUF[0:n) alone: with VARIANT ≠ 4 not on INBUF[80:112) nor on the VARIANT value, and in no
case on INLEN, as long as XEVAN accepts it. -/
def Obligations.InputBytesThatDoNotMatter : Prop :=
  (∀ s s' : State, s.variant ≠ 4#32 → s'.variant ≠ 4#32 → 80 ≤ s.inlen.toNat → s.inlen.toNat ≤ 112 →
    80 ≤ s'.inlen.toNat → s'.inlen.toNat ≤ 112 → s'.inbuf 80 = s.inbuf 80 →
    GivesNext (exec .xevan s) fun t => GivesNext (exec .xevan s') fun t' => t'.digest = t.digest) ∧
  (∀ s s' : State, s.variant = 4#32 → s'.variant = 4#32 → s.inlen.toNat = 112 → s'.inlen.toNat = 112 →
    s'.inbuf 112 = s.inbuf 112 →
    GivesNext (exec .xevan s) fun t => GivesNext (exec .xevan s') fun t' => t'.digest = t.digest)

/-! ## Results and errors (spec/60_exceptions.md) -/

/-- Every command, in every state, completes: BUSY falls, DONE rises, and the interrupt follows IRQ_EN. -/
def Obligations.EveryCommandCompletes : Prop :=
  ∀ (i : Instr) (s : State), GivesNext (exec i s) fun t =>
    t.busy = false ∧ t.done = true ∧ t.irqEn = s.irqEn ∧ t.irq = s.irqEn ∧ t.drop = s.drop ∧
    t.variant = s.variant ∧ t.inlen = s.inlen ∧ t.seqCur = s.seqCur ∧ t.inbox = s.inbox

/-- R307: a command that completes with any code other than OK, a word that does not decode included, changes only
BUSY, DONE, ERR and, for INTERNAL, FATAL. -/
def Obligations.ErrorsAreAtomic : Prop :=
  (∀ (i : Instr) (s t : State), exec i s = .next t → t.err ≠ .ok →
    t = { s with busy := false, done := true, err := t.err, fatal := s.fatal || t.err == .internal }) ∧
  (∀ s t : State, coreStep s = .next t → t.err ≠ .ok →
    t = { s with busy := false, done := true, err := t.err, fatal := s.fatal || t.err == .internal })

/-- No command, from any state, completes with INTERNAL, and none sets FATAL: the width invariant of R287 holds in
every execution. -/
def Obligations.NoCommandIsInternal : Prop :=
  ∀ (i : Instr) (s : State), GivesNext (exec i s) fun t => t.err ≠ .internal ∧ t.fatal = s.fatal

/-- R303: RANGE is raised exactly by EABSORB past DBUF or past MAXMSG, by EFINAL past DBUF, and by XEVAN with INLEN
above 112. -/
def Obligations.RangeIsRaisedInTheseCasesOnly : Prop :=
  ∀ s : State,
    (∀ (e : Engine) (off len : BitVec 8), GivesNext (exec (.eabsorb e.field off len) s) fun t =>
      (t.err = .range ↔ 128 < off.toNat + len.toNat ∨ 2 ^ 61 - 1 < (s.msg e).length + len.toNat)) ∧
    (∀ (e : Engine) (off : BitVec 8), GivesNext (exec (.efinal e.field off) s) fun t =>
      (t.err = .range ↔ 128 < off.toNat + e.digestLen)) ∧
    (GivesNext (exec .xevan s) fun t => (t.err = .range ↔ 112 < s.inlen.toNat)) ∧
    (∀ i : Instr, (i = .nop ∨ (∃ eng, i = .einit eng) ∨ i.wellFormed = false) →
      GivesNext (exec i s) fun t => t.err ≠ .range) ∧
    (∀ e : DecodeError, decode s.seqCur = .error e → GivesNext (coreStep s) fun t => t.err ≠ .range)

/-- The worked cases of the precedence ILLEGAL, BADENG, RANGE, PRECOND. -/
def Obligations.ErrorPrecedenceExamples : Prop :=
  ∀ s : State,
    (s.seqCur = 0x00001F12#32 → coreStep s = .next (s.errorState .badEng)) ∧
    (s.seqCur = 0xFFFF1F11#32 → coreStep s = .next (s.errorState .badEng)) ∧
    (s.seqCur = 0x01001F12#32 → coreStep s = .next (s.errorState .illegal)) ∧
    (s.seqCur = 0x00000001#32 → s.inlen = 200#8 → s.variant = 4#32 → coreStep s = .next (s.errorState .range))

/-- R42: the interrupt is IRQ_EN ∧ DONE at every instant: raised by every completion under IRQ_EN, cleared by writing 1
to STATUS bit 1, by the next issue, by IRQ_EN = 0 (which leaves DONE) and by a reset. -/
def Obligations.InterruptIsIrqEnAndDone : Prop :=
  (∀ s : State, s.irq = (s.irqEn && s.done)) ∧
  (∀ (i : Instr) (s : State), GivesNext (exec i s) fun t => t.irq = s.irqEn) ∧
  (∀ (s : State) (v : Word), v[1] = true → (memWrite 0x008 v s).irq = false ∧ (memWrite 0x008 v s).done = false) ∧
  (∀ (s : State) (c : Word), s.busy = false → s.fatal = false → (memWrite 0x00C c s).irq = false) ∧
  (∀ (s : State) (v : Word), v[0] = false → v[1] = false →
    (memWrite 0x004 v s).irq = false ∧ (memWrite 0x004 v s).done = s.done) ∧
  (∀ s : State, (resetBlock s).irq = false)

/-! ## The bus (spec/10_state.md, spec/20_memory.md, spec/40_engine_commands.md section 1) -/

/-- R73: what a 32-bit aligned read returns at every offset of the block, and that it changes nothing. -/
def Obligations.ReadsReturnTheRegisterMap : Prop :=
  ∀ s : State,
    memRead s 0x000 = 0x58450111#32 ∧
    memRead s 0x004 = (if s.irqEn then 1#32 else 0#32) ∧
    memRead s 0x008 = s.statusWord ∧
    memRead s 0x00C = 0#32 ∧
    memRead s 0x010 = s.variant ∧
    memRead s 0x014 = s.inlen.setWidth 32 ∧
    (∀ off : Nat, off % 4 = 0 →
      ((0x100 ≤ off ∧ off < 0x170) ∨ (0x200 ≤ off ∧ off < 0x280) ∨ (0x300 ≤ off ∧ off < 0x320)) →
      memRead s off = (Memory.read s.mem off).setWidth 32 ||| ((Memory.read s.mem (off + 1)).setWidth 32 <<< 8) |||
        ((Memory.read s.mem (off + 2)).setWidth 32 <<< 16) ||| ((Memory.read s.mem (off + 3)).setWidth 32 <<< 24)) ∧
    (∀ off : Nat, ((0x018 ≤ off ∧ off < 0x100) ∨ (0x170 ≤ off ∧ off < 0x200) ∨ (0x280 ≤ off ∧ off < 0x300) ∨
      (0x320 ≤ off ∧ off < 0x400)) → memRead s off = 0#32) ∧
    (∀ off : BitVec 10, off.toNat % 4 = 0 →
      busAccess off .bits32 .read s = { s with resp := some (.data (memRead s off.toNat)) })

/-- STATUS as the host reads it: BUSY, DONE, DROP and FATAL in bits 0 to 3, ERR in bits 7:4, zero above. -/
def Obligations.StatusWordLayout : Prop :=
  ∀ s : State, (memRead s 0x008).toNat =
    s.busy.toNat + 2 * s.done.toNat + 4 * s.drop.toNat + 8 * s.fatal.toNat + 16 * s.err.code.toNat

/-- R75: byte i of a buffer with window offset w stands at offset w + i, and the word at w + 4j is its bytes 4j to
4j + 3, the first in bits 7:0; so byte i is byte lane i mod 4 of its word. For each of the three buffers; and the
worked word 0x04030201. -/
def Obligations.ByteLanesAreLittleEndian : Prop :=
  (∀ (s : State) (w n : Nat), ((w = 0x100 ∧ n = 112) ∨ (w = 0x200 ∧ n = 128) ∨ (w = 0x300 ∧ n = 32)) →
    (∀ j : Nat, j < n / 4 →
      memRead s (w + 4 * j) = (Memory.read s.mem (w + 4 * j)).setWidth 32 |||
        ((Memory.read s.mem (w + 4 * j + 1)).setWidth 32 <<< 8) |||
        ((Memory.read s.mem (w + 4 * j + 2)).setWidth 32 <<< 16) |||
        ((Memory.read s.mem (w + 4 * j + 3)).setWidth 32 <<< 24)) ∧
    (∀ i : Nat, i < n → (memRead s (w + 4 * (i / 4))).extractLsb' (8 * (i % 4)) 8 = Memory.read s.mem (w + i))) ∧
  (∀ s : State, s.inbuf 4 = [0x01#8, 0x02#8, 0x03#8, 0x04#8] → memRead s 0x100 = 0x04030201#32)

/-- R77: an access of another width, or at an offset that is not a multiple of 4, ends with a bus error and has no other
effect on any state. -/
def Obligations.OtherAccessesGetABusError : Prop :=
  ∀ (s : State) (off : BitVec 10) (w : Width) (d : Dir), (w ≠ .bits32 ∨ off.toNat % 4 ≠ 0) →
    busAccess off w d s = { s with resp := some (.busError off) }

/-- An idle block takes a write to each of its inputs whole, and it reads back; no other byte changes. ID, DIGEST and the
reserved offsets ignore writes. -/
def Obligations.WritesReplaceTheTarget : Prop :=
  ∀ (s : State) (v : Word),
    (s.busy = false →
      memWrite 0x010 v s = { s with variant := v } ∧
      memWrite 0x014 v s = { s with inlen := v.setWidth 8 } ∧
      memRead (memWrite 0x014 v s) 0x014 = v &&& 0xFF#32 ∧
      (∀ off : Nat, off % 4 = 0 → ((0x100 ≤ off ∧ off < 0x170) ∨ (0x200 ≤ off ∧ off < 0x280)) →
        memRead (memWrite off v s) off = v ∧
        (∀ a : Nat, ¬ (off ≤ a ∧ a < off + 4) → Memory.read (memWrite off v s).mem a = Memory.read s.mem a) ∧
        memWrite off v s = { s with mem := (memWrite off v s).mem })) ∧
    (∀ off : Nat, (off = 0 ∨ (0x018 ≤ off ∧ off < 0x100) ∨ (0x170 ≤ off ∧ off < 0x200) ∨
      (0x280 ≤ off ∧ off < 0x400)) → memWrite off v s = s) ∧
    (∀ (off : BitVec 10) (d : BitVec 64), off.toNat % 4 = 0 →
      busAccess off .bits32 (.write d) s =
        { memWrite off.toNat (d.setWidth 32) s with resp := some .written })

/-- R134: the writes that are dropped, each setting DROP and changing nothing else; writes to CTRL and STATUS are never
dropped, writes to ID, DIGEST and reserved offsets do not set DROP, and every dropped write is answered without
error. -/
def Obligations.BusyAndFaultProtection : Prop :=
  ∀ (s : State) (v : Word),
    (s.busy = true → ∀ off : Nat, off % 4 = 0 →
      (off = 0x00C ∨ off = 0x010 ∨ off = 0x014 ∨ (0x100 ≤ off ∧ off < 0x170) ∨ (0x200 ≤ off ∧ off < 0x280)) →
      memWrite off v s = { s with drop := true }) ∧
    (s.fatal = true → memWrite 0x00C v s = { s with drop := true }) ∧
    (v[1] = false → memWrite 0x004 v s = { s with irqEn := v[0] }) ∧
    (v[1] = true → memWrite 0x004 v s = resetBlock s) ∧
    memWrite 0x008 v s = { s with done := s.done && !v[1], drop := s.drop && !v[2] } ∧
    (∀ off : Nat, (off = 0 ∨ (0x018 ≤ off ∧ off < 0x100) ∨ (0x170 ≤ off ∧ off < 0x200) ∨
      (0x280 ≤ off ∧ off < 0x400)) → memWrite off v s = s) ∧
    (∀ (off : BitVec 10) (d : BitVec 64), off.toNat % 4 = 0 →
      (busAccess off .bits32 (.write d) s).resp = some .written)

/-- R132: a write to CMD is dropped while BUSY or FATAL, and else makes its word the running command, whatever the word
is; ERR keeps the previous code. The latency and the count of draws are the model's own fields (notes/assumptions/4.md). -/
def Obligations.IssueOfACommand : Prop :=
  ∀ (s : State) (c : Word),
    (s.busy = true ∨ s.fatal = true → memWrite 0x00C c s = { s with drop := true }) ∧
    (s.busy = false → s.fatal = false →
      ∃ lat : Nat, memWrite 0x00C c s =
        { s with seqCur := c, done := false, busy := true, latLeft := lat, draws := s.draws + 1 })

/-- R338: the CMD write that issues a command clears DONE and the interrupt in the same step. -/
def Obligations.NoStaleDone : Prop :=
  ∀ (s : State) (off : BitVec 10) (c : BitVec 64), off = 0x00C#10 → s.busy = false → s.fatal = false →
    (busAccess off .bits32 (.write c) s).busy = true ∧ (busAccess off .bits32 (.write c) s).done = false ∧
    (busAccess off .bits32 (.write c) s).irq = false

/-- While a command runs, no bus access but a soft reset changes what the command reads, its word, the messages or the
private state, and none ends the command. -/
def Obligations.RunningCommandsInputsAreFrozen : Prop :=
  ∀ (s : State) (off : BitVec 10) (w : Width) (d : Dir), s.busy = true →
    SameInputs s (busAccess off w d s) ∧ (busAccess off w d s).msgs = s.msgs ∧
      (busAccess off w d s).seqCur = s.seqCur ∧ (busAccess off w d s).casc = s.casc ∧
      (busAccess off w d s).busy = true ∧ (busAccess off w d s).err = s.err ∨
    (off = 0x004#10 ∧ w = .bits32 ∧ ∃ v : BitVec 64, d = .write v ∧ v[1] = true ∧
      busAccess off w d s = { resetBlock s with resp := some .written })

/-- R31: ID reads 0x58450111 at reset and at all times, its fields are "XE", revision 1 and 17 engines, and a write to
it is ignored without error. -/
def Obligations.IdIsConstant : Prop :=
  (∀ s : State, memRead s 0x000 = 0x58450111#32) ∧
  (∀ (s : State) (v : BitVec 64), busAccess 0x000#10 .bits32 (.write v) s = { s with resp := some .written }) ∧
  (0x58450111#32).extractLsb' 16 16 = 0x5845#16 ∧ (0x58450111#32).extractLsb' 8 8 = 0x01#8 ∧
  (0x58450111#32).extractLsb' 0 8 = 0x11#8

/-! ## Reset and invariants (spec/10_state.md, spec/70_reset_and_hazards.md) -/

/-- R53: the reset values of all architectural state. -/
def Obligations.ResetValues : Prop :=
  memRead State.reset 0x000 = 0x58450111#32 ∧ memRead State.reset 0x004 = 0#32 ∧
  memRead State.reset 0x008 = 0#32 ∧ memRead State.reset 0x010 = 0#32 ∧ memRead State.reset 0x014 = 0#32 ∧
  State.reset.inbuf 112 = zeros 112 ∧ State.reset.dbuf 0 128 = zeros 128 ∧ State.reset.digest = zeros 32 ∧
  State.reset.irq = false ∧ (∀ e : Engine, State.reset.msg e = []) ∧ State.reset.busy = false ∧
  State.reset.done = false ∧ State.reset.drop = false ∧ State.reset.fatal = false ∧ State.reset.err = .ok

/-- R332: a write to CTRL with SRST = 1 resets the block in every state, whatever the other written bits are; a command
that was running is aborted: nothing of it is left to run, and it does not complete. A write with SRST = 0 only writes
IRQ_EN. -/
def Obligations.SoftResetRestoresTheResetState : Prop :=
  (∀ (s : State) (v : Word), v[1] = true →
    (memWrite 0x004 v s).AtReset ∧ memRead (memWrite 0x004 v s) 0x000 = 0x58450111#32 ∧
    coreTurn (memWrite 0x004 v s) = false ∧ (memWrite 0x004 v s).seqRes = {}) ∧
  (∀ (s : State) (v : Word), v[1] = false → memWrite 0x004 v s = { s with irqEn := v[0] })

/-- From R330: the platform's reset gives every piece of the block's state its reset value, in every state; what the outside
world has pending, and the model's count of latencies drawn, stay (notes/assumptions/10.md). -/
def Obligations.PlatformResetRestoresTheResetState : Prop :=
  ∀ s : State, GivesNext (hostStep .reset s) fun t =>
    t.AtReset ∧ memRead t 0x000 = 0x58450111#32 ∧ coreTurn t = false ∧ t.seqRes = {} ∧
    t.inbox = s.inbox ∧ t.draws = s.draws ∧ t.resp = s.resp

/-- The reset state meets the invariant; its clauses on WBUF and SEQ.RES rest on values the model chose
(notes/assumptions/3.md). -/
def Obligations.ResetMeetsTheInvariant : Prop := State.reset.Inv

/-- Every step keeps the invariant: BUSY excludes DONE; FATAL goes with an idle block and ERR = 15; the buffers' bytes
are in canonical form inside their windows; no message is longer than MAXMSG; WBUF has 128 bytes; nothing is left
staged (the canonical form and the emptied staging area are the model's, notes/assumptions/12.md and 14.md). -/
def Obligations.EveryStepKeepsTheInvariant : Prop := ∀ s t : State, s.Inv → step s = .next t → t.Inv

/-- R34: the value invariants of STATUS hold at reset, every step keeps them, and ERR never reads 5 to 14. -/
def Obligations.StatusValueInvariants : Prop :=
  ((State.reset.busy = true → State.reset.done = false) ∧
    (State.reset.fatal = true → State.reset.busy = false ∧ State.reset.err.code = 15#4)) ∧
  (∀ s t : State, (s.busy = true → s.done = false) → (s.fatal = true → s.busy = false ∧ s.err.code = 15#4) →
    step s = .next t → (t.busy = true → t.done = false) ∧ (t.fatal = true → t.busy = false ∧ t.err.code = 15#4)) ∧
  (∀ s : State, (memRead s 0x008).extractLsb' 4 4 ∈ [0#4, 1#4, 2#4, 3#4, 4#4, 15#4])

/-- A conforming block never reaches FATAL: no step sets it. -/
def Obligations.FatalIsNeverReached : Prop :=
  ∀ s t : State, s.fatal = false → step s = .next t → t.fatal = false

/-- While FATAL = 1 the block is stuck: a step that serves no reset keeps FATAL, BUSY = 0, ERR, the messages and the word
in SEQ.CUR, so only a reset (the reset input, or an accepted 32-bit write to 0x004 with bit 1 set) gets the block out of
it, and that reset leaves it in its reset state. -/
def Obligations.FatalIsStuckUntilReset : Prop :=
  ∀ s t : State, s.fatal = true → s.busy = false → step s = .next t →
    (t.fatal = true ∧ t.busy = false ∧ t.err = s.err ∧ t.msgs = s.msgs ∧ t.seqCur = s.seqCur) ∨
    ((∃ ev rest, s.inbox = ev :: rest ∧ ev.IsReset) ∧ t.AtReset)

/-! ## The engines (spec/00_scope.md, files 41 to 43) -/

/-- Every engine's digest has the width N_e, on every message. -/
def Obligations.DigestsHaveTheirWidth : Prop :=
  ∀ (e : Engine) (m : Bytes), (e.hash m).length = e.digestLen ∧
    (e ≠ .haval → (e.hash m).length = 64) ∧ (e = .haval → (e.hash m).length = 32)

/-- The padded message of every engine with a padding rule starts with the message and is a whole number of blocks,
one at least. -/
def Obligations.PaddingFillsWholeBlocks : Prop :=
  ∀ m : Bytes,
    (∀ pr ∈ [(blakePad m, 128), (bmwPad m, 128), (groestlPad m, 128), (jhPad m, 64), (keccakPad m, 72), (cubePad m, 32),
        (echoPad m, 128), (shabalPad m, 64), (whirlPad m, 64), (shaPad m, 128), (havalPad m, 128)],
      pr.1.length % pr.2 = 0 ∧ m.length < pr.1.length ∧ pr.1.take m.length = m)

/-- The S-boxes follow the constructions that their rules give: the AES S-box is an inverse in GF(2^8) followed by the
affine map, with 0 sent to 0x63, and Whirlpool's is built from the three 4-bit mini-boxes. -/
def Obligations.SboxesFollowTheirConstruction : Prop :=
  sbAes 0x00#8 = 0x63#8 ∧
  (∀ x : Byte, x ≠ 0#8 → ∃ y : Byte, gmul 0x11B x y = 1#8 ∧
    sbAes x = y ^^^ y.rotateLeft 1 ^^^ y.rotateLeft 2 ^^^ y.rotateLeft 3 ^^^ y.rotateLeft 4 ^^^ 0x63#8) ∧
  (∃ E E' R : List (BitVec 4),
    E = [1, 11, 9, 12, 13, 6, 15, 3, 14, 8, 7, 4, 10, 2, 5, 0] ∧
    R = [7, 12, 11, 13, 14, 4, 9, 15, 6, 3, 8, 10, 2, 5, 1, 0] ∧
    (∀ z : BitVec 4, nth E' (nth E z.toNat).toNat = z) ∧
    ∀ h l : BitVec 4,
      let u := nth E h.toNat
      let w := nth E' l.toNat
      let r := nth R (u ^^^ w).toNat
      sbW (h ++ l) = nth E (u ^^^ r).toNat ++ nth E' (w ^^^ r).toNat)

/-- The listed constants follow the constructions that their rules give: JH's C_(r+1) is R_64 of C_r, CubeHash's IV is
160 rounds of its parameters, Skein's is UBI of the configuration, Shabal's is its two prefix blocks. SHA-512's K[t] is
the first 64 bits of the fraction of the cube root of the t-th prime, and IV512[i] of the square root of the i-th: with
the root's whole part a in front, the constant is the root of p · 2^192 (of p · 2^128) rounded down. -/
def Obligations.ConstantsFollowTheirConstruction : Prop :=
  (∀ r < 41, jhC.getD (r + 1) 0 =
    (jhRound 64 (tab 64 fun i => BitVec.ofNat 4 (jhC.getD r 0 >>> (4 * (63 - i)))) 0).foldl
      (fun n x => 16 * n + x.toNat) 0) ∧
  cubeRounds 160 ([64#32, 32#32, 16#32] ++ List.replicate 29 0#32) = cubeIV ∧
  ubi (List.replicate 8 0#64) skeinCfg 4 = skeinIV ∧
  shabalBlock
    (shabalBlock { a := List.replicate 12 0#32, b := List.replicate 16 0#32, c := List.replicate 16 0#32,
                   w := 0xFFFFFFFFFFFFFFFF#64 }
      (tab 16 fun i => BitVec.ofNat 32 (512 + i)))
    (tab 16 fun i => BitVec.ofNat 32 (528 + i)) = shabalIV ∧
  (let primes := (List.range 410).filter fun p => 2 ≤ p && (List.range p).all fun d => d < 2 || p % d != 0
   (∀ t < 80, ∃ a < 8, (a * 2 ^ 64 + (nth shaK t).toNat) ^ 3 ≤ primes.getD t 0 * 2 ^ 192 ∧
     primes.getD t 0 * 2 ^ 192 < (a * 2 ^ 64 + (nth shaK t).toNat + 1) ^ 3) ∧
   (∀ i < 8, ∃ a < 8, (a * 2 ^ 64 + (nth iv512 i).toNat) ^ 2 ≤ primes.getD i 0 * 2 ^ 128 ∧
     primes.getD i 0 * 2 ^ 128 < (a * 2 ^ 64 + (nth iv512 i).toNat + 1) ^ 2)) ∧
  shaK.length = 80 ∧ iv512.length = 8
end

