-- ==== Sys2Proof/Laws/Bytes.lean ====
section
/-!
SUPPORT. Laws/Bytes.lean: lengths and elements of the byte-string helpers.
-/

namespace Sys2Proof.Machine

@[simp] theorem tab_length {α : Type} (n : Nat) (f : Nat → α) : (tab n f).length = n := by simp [tab]

@[simp] theorem tab_getElem {α : Type} (n : Nat) (f : Nat → α) (i : Nat) (h : i < (tab n f).length) :
    (tab n f)[i] = f i := by simp [tab]

/-- A tabulation whose function is pointwise equal is equal. -/
theorem tab_congr {α : Type} {n : Nat} {f g : Nat → α} (h : ∀ i, i < n → f i = g i) : tab n f = tab n g := by
  simp only [tab]
  exact List.map_congr_left fun i hi => h i (List.mem_range.mp hi)

/-- A tabulation splits at any place. -/
theorem tab_add {α : Type} (n k : Nat) (f : Nat → α) : tab (n + k) f = tab n f ++ tab k fun i => f (n + i) := by
  simp [tab, List.range_add, Function.comp_def]

/-- A list is the tabulation of its own elements. -/
theorem tab_getD {α : Type} (xs : List α) (d : α) : tab xs.length (fun i => xs.getD i d) = xs := by
  apply List.ext_getElem
  · simp
  · intro i h1 h2
    simp [List.getD_eq_getElem?_getD, h2]

@[simp] theorem zeros_length (n : Nat) : (zeros n).length = n := by simp [zeros]

@[simp] theorem toLE_length (n x : Nat) : (toLE n x).length = n := by simp [toLE]

@[simp] theorem toBE_length (n x : Nat) : (toBE n x).length = n := by simp [toBE]

@[simp] theorem toLe32_length (x : Word) : (toLe32 x).length = 4 := by simp [toLe32]

@[simp] theorem toLe64_length (x : DWord) : (toLe64 x).length = 8 := by simp [toLe64]

@[simp] theorem toBe64_length (x : DWord) : (toBe64 x).length = 8 := by simp [toBe64]

/-- The length of n pieces of k bytes each. -/
theorem length_flatMap_range (n k : Nat) (f : Nat → Bytes) (h : ∀ i, (f i).length = k) :
    ((List.range n).flatMap f).length = n * k := by
  simp [List.length_flatMap, h]

/-- The padding count leaves the wanted remainder (R168 and the other padding rules). -/
theorem padZeros_mod (len : Nat) {m r : Nat} (h : r < m) : (len + 1 + padZeros len m r) % m = r := by
  unfold padZeros
  have hm : 0 < m := by omega
  have hx := Nat.mod_lt (len + 1) hm
  have hd := Nat.div_add_mod (len + 1) m
  generalize hq : (len + 1) / m = q at *
  generalize ht : (len + 1) % m = t at *
  rcases Nat.lt_or_ge r t with hlt | hge
  · have hz : (m + r - t) % m = m + r - t := Nat.mod_eq_of_lt (by omega)
    rw [hz]
    have he : len + 1 + (m + r - t) = r + m * (q + 1) := by
      rw [Nat.mul_add, Nat.mul_one]
      omega
    rw [he, Nat.add_mul_mod_self_left, Nat.mod_eq_of_lt h]
  · have hz : (m + r - t) % m = r - t := by
      have he : m + r - t = (r - t) + m * 1 := by omega
      rw [he, Nat.add_mul_mod_self_left, Nat.mod_eq_of_lt (by omega)]
    rw [hz]
    have he : len + 1 + (r - t) = r + m * q := by omega
    rw [he, Nat.add_mul_mod_self_left, Nat.mod_eq_of_lt h]

/-- The padding count is less than the block. -/
theorem padZeros_lt (len : Nat) {m r : Nat} (h : r < m) : padZeros len m r < m :=
  Nat.mod_lt _ (by omega)

/-- The four bytes of a word, read back little-endian (R11). -/
theorem leNat_toLE (n x : Nat) : leNat (toLE n x) = x % 2 ^ (8 * n) := by
  induction n generalizing x with
  | zero => simp [toLE, tab, leNat, Nat.mod_one]
  | succ n ih =>
    have hs : toLE (n + 1) x = BitVec.ofNat 8 x :: toLE n (x >>> 8) := by
      simp only [toLE, tab, List.range_succ_eq_map, List.map_cons, List.map_map, Nat.mul_zero, Nat.shiftRight_zero]
      congr 1
      apply List.map_congr_left
      intro i _
      simp only [Function.comp_apply, ← Nat.shiftRight_add]
      congr 2
      omega
    rw [hs, leNat, ih, Nat.shiftRight_eq_div_pow]
    have hp : 2 ^ (8 * (n + 1)) = 2 ^ 8 * 2 ^ (8 * n) := by rw [← pow_add]; congr 1; omega
    rw [hp, Nat.mod_mul]
    simp

/-- `le32` undoes `to_le32` (R11). -/
@[simp] theorem le32_toLe32 (v : Word) : le32 (toLe32 v) = v := by
  simp only [le32, toLe32, leNat_toLE]
  exact BitVec.eq_of_toNat_eq (by simp [Nat.mod_eq_of_lt v.isLt])

end Sys2Proof.Machine
end

