-- ==== Sys2Proof/Laws/Memory.lean ====
section
/-!
SUPPORT. Laws/Memory.lean: reading after writing, the canonical form, and the windows of the buffers.
-/

namespace Sys2Proof.Machine

@[simp] theorem memory_read_nil (a : Nat) : Memory.read [] a = 0#8 := rfl

theorem read_insert_same (m : Memory) (a : Nat) (b : Byte) : Memory.read (Memory.insert a b m) a = b ∨
    ∃ c ∈ m, c.1 = a := by
  induction m with
  | nil => left; simp [Memory.insert, Memory.read]
  | cons c m ih =>
    obtain ⟨k, v⟩ := c
    by_cases hk : k = a
    · right; exact ⟨(k, v), by simp, hk⟩
    · simp only [Memory.insert]
      split
      · left; simp [Memory.read]
      · rcases ih with h | ⟨c, hc, he⟩
        · left; simp [Memory.read, hk, h]
        · right; exact ⟨c, by simp [hc], he⟩

theorem read_insert_other (m : Memory) {a x : Nat} (b : Byte) (h : x ≠ a) :
    Memory.read (Memory.insert a b m) x = Memory.read m x := by
  induction m with
  | nil => simp [Memory.insert, Memory.read, Ne.symm h]
  | cons c m ih =>
    obtain ⟨k, v⟩ := c
    simp only [Memory.insert]
    split
    · simp [Memory.read, Ne.symm h]
    · simp [Memory.read, ih]

theorem read_filter_same (m : Memory) (a : Nat) : Memory.read (m.filter fun c => c.1 != a) a = 0#8 := by
  induction m with
  | nil => rfl
  | cons c m ih =>
    obtain ⟨k, v⟩ := c
    by_cases hk : k = a
    · simp [hk, ih]
    · simp [hk, Memory.read, ih]

theorem read_filter_other (m : Memory) {a x : Nat} (h : x ≠ a) :
    Memory.read (m.filter fun c => c.1 != a) x = Memory.read m x := by
  induction m with
  | nil => rfl
  | cons c m ih =>
    obtain ⟨k, v⟩ := c
    by_cases hk : k = a
    · subst hk; simp [Memory.read, Ne.symm h, ih]
    · simp [hk, Memory.read, ih]

/-- Reading the byte that was written. -/
@[simp] theorem read_write_same (m : Memory) (a : Nat) (b : Byte) : Memory.read (Memory.write m a b) a = b := by
  unfold Memory.write
  by_cases hb : b = 0#8
  · simp [hb, read_filter_same]
  · simp only [hb, if_false]
    rcases read_insert_same (m.filter fun c => c.1 != a) a b with h | ⟨c, hc, he⟩
    · exact h
    · simp [he] at hc

/-- Reading any other byte. -/
theorem read_write_other (m : Memory) {a x : Nat} (b : Byte) (h : x ≠ a) :
    Memory.read (Memory.write m a b) x = Memory.read m x := by
  unfold Memory.write
  by_cases hb : b = 0#8
  · simp [hb, read_filter_other m h]
  · simp [hb, read_insert_other _ b h, read_filter_other m h]

/-- What any byte reads as after a byte string was written. -/
theorem read_writeBytes (m : Memory) (a : Nat) (d : Bytes) (x : Nat) :
    Memory.read (Memory.writeBytes m a d) x =
      if a ≤ x ∧ x < a + d.length then nth d (x - a) else Memory.read m x := by
  induction d generalizing m a with
  | nil => simp [Memory.writeBytes]
  | cons b d ih =>
    simp only [Memory.writeBytes, ih, List.length_cons]
    by_cases hx : x = a
    · subst hx; simp [nth]
    · by_cases h : a + 1 ≤ x ∧ x < a + 1 + d.length
      · have h' : a ≤ x ∧ x < a + (d.length + 1) := by omega
        obtain ⟨k, hk⟩ : ∃ k, x - a = k + 1 := ⟨x - a - 1, by omega⟩
        have hk' : x - (a + 1) = k := by omega
        simp [h, h', hk, hk', nth]
      · have h' : ¬ (a ≤ x ∧ x < a + (d.length + 1)) := by omega
        simp only [h, h', if_false]
        exact read_write_other m b hx

/-- A byte outside the written ones reads as before. -/
theorem read_writeBytes_outside (m : Memory) {a x : Nat} {d : Bytes} (h : ¬ (a ≤ x ∧ x < a + d.length)) :
    Memory.read (Memory.writeBytes m a d) x = Memory.read m x := by
  rw [read_writeBytes, if_neg h]

@[simp] theorem readBytes_length (m : Memory) (a n : Nat) : (Memory.readBytes m a n).length = n := by
  simp [Memory.readBytes]

/-- Reading back a byte string just written. -/
theorem readBytes_writeBytes_same (m : Memory) (a : Nat) (d : Bytes) :
    Memory.readBytes (Memory.writeBytes m a d) a d.length = d := by
  rw [Memory.readBytes, tab_congr (g := fun i => d.getD i 0#8)]
  · exact tab_getD d 0#8
  · intro i hi
    simp [read_writeBytes, hi, nth]

/-- Reading bytes that a write does not meet. -/
theorem readBytes_writeBytes_outside (m : Memory) {a b n : Nat} {d : Bytes}
    (h : b + n ≤ a ∨ a + d.length ≤ b) :
    Memory.readBytes (Memory.writeBytes m a d) b n = Memory.readBytes m b n := by
  apply tab_congr
  intro i hi
  exact read_writeBytes_outside m (by omega)

/-- A longer read is a shorter one followed by the rest. -/
theorem readBytes_add (m : Memory) (a n k : Nat) :
    Memory.readBytes m a (n + k) = Memory.readBytes m a n ++ Memory.readBytes m (a + n) k := by
  simp only [Memory.readBytes, tab_add, Nat.add_assoc]

/-- The canonical form is kept by taking cells away. -/
theorem wf_filter {m : Memory} (p : Host.Cell → Bool) (h : Memory.wf m = true) : Memory.wf (m.filter p) = true := by
  induction m with
  | nil => rfl
  | cons c m ih =>
    obtain ⟨k, v⟩ := c
    simp only [Memory.wf, Bool.and_eq_true, List.all_eq_true] at h
    by_cases hp : p (k, v)
    · simp only [List.filter_cons, hp, if_true, Memory.wf, Bool.and_eq_true, List.all_eq_true]
      exact ⟨⟨h.1.1, fun c hc => h.1.2 c (List.mem_filter.mp hc).1⟩, ih h.2⟩
    · simpa [List.filter_cons, hp] using ih h.2

theorem mem_insert {m : Memory} {a : Nat} {b : Byte} {c : Host.Cell} (h : c ∈ Memory.insert a b m) :
    c = (a, b) ∨ c ∈ m := by
  induction m with
  | nil => left; simpa [Memory.insert] using h
  | cons e m ih =>
    obtain ⟨k, v⟩ := e
    simp only [Memory.insert] at h
    split at h
    · simpa using h
    · rcases List.mem_cons.mp h with rfl | h
      · right; simp
      · rcases ih h with rfl | h
        · left; rfl
        · right; simp [h]

/-- The canonical form is kept by putting in a cell of an offset that is not listed. -/
theorem wf_insert {m : Memory} {a : Nat} {b : Byte} (hb : b ≠ 0#8) (ha : ∀ c ∈ m, c.1 ≠ a)
    (h : Memory.wf m = true) : Memory.wf (Memory.insert a b m) = true := by
  induction m with
  | nil => simp [Memory.insert, Memory.wf, hb]
  | cons e m ih =>
    obtain ⟨k, v⟩ := e
    have hk : k ≠ a := ha (k, v) (by simp)
    simp only [Memory.wf, Bool.and_eq_true, List.all_eq_true, decide_eq_true_eq, bne_iff_ne] at h
    obtain ⟨⟨hv, hall⟩, hm⟩ := h
    simp only [Memory.insert]
    split
    · rename_i hlt
      simp only [Memory.wf, Bool.and_eq_true, List.all_eq_true, decide_eq_true_eq, bne_iff_ne]
      refine ⟨⟨hb, fun c hc => ?_⟩, ⟨hv, hall⟩, hm⟩
      rcases List.mem_cons.mp hc with rfl | hc
      · exact hlt
      · exact lt_trans hlt (hall c hc)
    · rename_i hlt
      simp only [Memory.wf, Bool.and_eq_true, List.all_eq_true, decide_eq_true_eq, bne_iff_ne]
      refine ⟨⟨hv, fun c hc => ?_⟩, ih (fun c hc => ha c (by simp [hc])) hm⟩
      rcases mem_insert hc with rfl | hc
      · simp only; omega
      · exact hall c hc

/-- A write keeps the canonical form. -/
theorem wf_write {m : Memory} (a : Nat) (b : Byte) (h : Memory.wf m = true) : Memory.wf (Memory.write m a b) = true := by
  unfold Memory.write
  by_cases hb : b = 0#8
  · simpa [hb] using wf_filter _ h
  · simp only [hb, if_false]
    refine wf_insert hb (fun c hc => ?_) (wf_filter _ h)
    simpa using (List.mem_filter.mp hc).2

/-- Writing a byte string keeps the canonical form. -/
theorem wf_writeBytes {m : Memory} (a : Nat) (d : Bytes) (h : Memory.wf m = true) :
    Memory.wf (Memory.writeBytes m a d) = true := by
  induction d generalizing m a with
  | nil => exact h
  | cons b d ih => exact ih _ (wf_write a b h)

/-- A write into a buffer keeps every cell inside the buffers. -/
theorem inWindows_write {m : Memory} {a : Nat} (b : Byte) (ha : inBuffer a = true)
    (h : Memory.inWindows m = true) : Memory.inWindows (Memory.write m a b) = true := by
  have hf : Memory.inWindows (m.filter fun c => c.1 != a) = true := by
    simp only [Memory.inWindows, List.all_eq_true] at h ⊢
    exact fun c hc => h c (List.mem_filter.mp hc).1
  unfold Memory.write
  by_cases hb : b = 0#8
  · simpa [hb] using hf
  · simp only [hb, if_false, Memory.inWindows, List.all_eq_true] at hf ⊢
    intro c hc
    rcases mem_insert hc with rfl | hc
    · exact ha
    · exact hf c hc

/-- Writing a byte string into a buffer keeps every cell inside the buffers. -/
theorem inWindows_writeBytes {m : Memory} {a : Nat} {d : Bytes} (ha : ∀ i, i < d.length → inBuffer (a + i) = true)
    (h : Memory.inWindows m = true) : Memory.inWindows (Memory.writeBytes m a d) = true := by
  induction d generalizing m a with
  | nil => exact h
  | cons b d ih =>
    refine ih (fun i hi => ?_) (inWindows_write b (by simpa using ha 0 (by simp)) h)
    have := ha (i + 1) (by simp; omega)
    rwa [show a + 1 + i = a + (i + 1) by omega]

/-- Two memories in canonical form that read alike everywhere are the same data. -/
theorem wf_ext {m m' : Memory} (h : Memory.wf m = true) (h' : Memory.wf m' = true)
    (hr : ∀ a, Memory.read m a = Memory.read m' a) : m = m' := by
  have below : ∀ {k : Nat} {l : Memory}, (∀ c ∈ l, k < c.1) → Memory.read l k = 0#8 := by
    intro k l hl
    induction l with
    | nil => rfl
    | cons c l ih =>
      obtain ⟨j, v⟩ := c
      have hj := hl (j, v) (by simp)
      have hne : j ≠ k := by simp at hj; omega
      simp [Memory.read, hne, ih fun c hc => hl c (by simp [hc])]
  induction m generalizing m' with
  | nil =>
    cases m' with
    | nil => rfl
    | cons c m' =>
      obtain ⟨k, v⟩ := c
      simp only [Memory.wf, Bool.and_eq_true, bne_iff_ne] at h'
      have := hr k
      simp [Memory.read] at this
      exact absurd this.symm h'.1.1
  | cons c m ih =>
    obtain ⟨k, v⟩ := c
    cases m' with
    | nil =>
      simp only [Memory.wf, Bool.and_eq_true, bne_iff_ne] at h
      have := hr k
      simp [Memory.read] at this
      exact absurd this h.1.1
    | cons c' m' =>
      obtain ⟨k', v'⟩ := c'
      simp only [Memory.wf, Bool.and_eq_true, bne_iff_ne, List.all_eq_true, decide_eq_true_eq] at h h'
      have hk : k = k' := by
        rcases Nat.lt_trichotomy k k' with hlt | he | hlt
        · have h1 := hr k
          have h2 : Memory.read ((k', v') :: m') k = 0#8 := below fun c hc => by
            rcases List.mem_cons.mp hc with rfl | hc
            · exact hlt
            · exact lt_trans hlt (h'.1.2 c hc)
          rw [h2] at h1
          simp [Memory.read] at h1
          exact absurd h1 h.1.1
        · exact he
        · have h1 := hr k'
          have h2 : Memory.read ((k, v) :: m) k' = 0#8 := below fun c hc => by
            rcases List.mem_cons.mp hc with rfl | hc
            · exact hlt
            · exact lt_trans hlt (h.1.2 c hc)
          rw [h2] at h1
          simp [Memory.read] at h1
          exact absurd h1.symm h'.1.1
      subst hk
      have hv : v = v' := by simpa [Memory.read] using hr k
      subst hv
      congr 1
      refine ih h.2 h'.2 fun a => ?_
      by_cases ha : k = a
      · subst ha; rw [below h.1.2, below h'.1.2]
      · simpa [Memory.read, ha] using hr a

end Sys2Proof.Machine
end

