-- ==== Sys2Proof/Laws/State.lean ====
section
/-!
SUPPORT. Laws/State.lean: what each update of the state does to each field, one lemma per field and update, and the
reset value of each field.
-/

namespace Sys2Proof.Machine

@[simp] theorem writeDbuf_irqEn (s : State) (off : Nat) (d : Bytes) : (s.writeDbuf off d).irqEn = s.irqEn := rfl
@[simp] theorem writeDbuf_busy (s : State) (off : Nat) (d : Bytes) : (s.writeDbuf off d).busy = s.busy := rfl
@[simp] theorem writeDbuf_done (s : State) (off : Nat) (d : Bytes) : (s.writeDbuf off d).done = s.done := rfl
@[simp] theorem writeDbuf_drop (s : State) (off : Nat) (d : Bytes) : (s.writeDbuf off d).drop = s.drop := rfl
@[simp] theorem writeDbuf_fatal (s : State) (off : Nat) (d : Bytes) : (s.writeDbuf off d).fatal = s.fatal := rfl
@[simp] theorem writeDbuf_err (s : State) (off : Nat) (d : Bytes) : (s.writeDbuf off d).err = s.err := rfl
@[simp] theorem writeDbuf_variant (s : State) (off : Nat) (d : Bytes) : (s.writeDbuf off d).variant = s.variant := rfl
@[simp] theorem writeDbuf_inlen (s : State) (off : Nat) (d : Bytes) : (s.writeDbuf off d).inlen = s.inlen := rfl
@[simp] theorem writeDbuf_mem (s : State) (off : Nat) (d : Bytes) : (s.writeDbuf off d).mem = Memory.writeBytes s.mem (dbufBase + off) d := rfl
@[simp] theorem writeDbuf_msgs (s : State) (off : Nat) (d : Bytes) : (s.writeDbuf off d).msgs = s.msgs := rfl
@[simp] theorem writeDbuf_casc (s : State) (off : Nat) (d : Bytes) : (s.writeDbuf off d).casc = s.casc := rfl
@[simp] theorem writeDbuf_seqCur (s : State) (off : Nat) (d : Bytes) : (s.writeDbuf off d).seqCur = s.seqCur := rfl
@[simp] theorem writeDbuf_seqRes (s : State) (off : Nat) (d : Bytes) : (s.writeDbuf off d).seqRes = s.seqRes := rfl
@[simp] theorem writeDbuf_inbox (s : State) (off : Nat) (d : Bytes) : (s.writeDbuf off d).inbox = s.inbox := rfl
@[simp] theorem writeDbuf_latLeft (s : State) (off : Nat) (d : Bytes) : (s.writeDbuf off d).latLeft = s.latLeft := rfl
@[simp] theorem writeDbuf_draws (s : State) (off : Nat) (d : Bytes) : (s.writeDbuf off d).draws = s.draws := rfl
@[simp] theorem writeDbuf_resp (s : State) (off : Nat) (d : Bytes) : (s.writeDbuf off d).resp = s.resp := rfl

@[simp] theorem writeDigest_irqEn (s : State) (d : Bytes) : (s.writeDigest d).irqEn = s.irqEn := rfl
@[simp] theorem writeDigest_busy (s : State) (d : Bytes) : (s.writeDigest d).busy = s.busy := rfl
@[simp] theorem writeDigest_done (s : State) (d : Bytes) : (s.writeDigest d).done = s.done := rfl
@[simp] theorem writeDigest_drop (s : State) (d : Bytes) : (s.writeDigest d).drop = s.drop := rfl
@[simp] theorem writeDigest_fatal (s : State) (d : Bytes) : (s.writeDigest d).fatal = s.fatal := rfl
@[simp] theorem writeDigest_err (s : State) (d : Bytes) : (s.writeDigest d).err = s.err := rfl
@[simp] theorem writeDigest_variant (s : State) (d : Bytes) : (s.writeDigest d).variant = s.variant := rfl
@[simp] theorem writeDigest_inlen (s : State) (d : Bytes) : (s.writeDigest d).inlen = s.inlen := rfl
@[simp] theorem writeDigest_mem (s : State) (d : Bytes) : (s.writeDigest d).mem = Memory.writeBytes s.mem digestBase d := rfl
@[simp] theorem writeDigest_msgs (s : State) (d : Bytes) : (s.writeDigest d).msgs = s.msgs := rfl
@[simp] theorem writeDigest_casc (s : State) (d : Bytes) : (s.writeDigest d).casc = s.casc := rfl
@[simp] theorem writeDigest_seqCur (s : State) (d : Bytes) : (s.writeDigest d).seqCur = s.seqCur := rfl
@[simp] theorem writeDigest_seqRes (s : State) (d : Bytes) : (s.writeDigest d).seqRes = s.seqRes := rfl
@[simp] theorem writeDigest_inbox (s : State) (d : Bytes) : (s.writeDigest d).inbox = s.inbox := rfl
@[simp] theorem writeDigest_latLeft (s : State) (d : Bytes) : (s.writeDigest d).latLeft = s.latLeft := rfl
@[simp] theorem writeDigest_draws (s : State) (d : Bytes) : (s.writeDigest d).draws = s.draws := rfl
@[simp] theorem writeDigest_resp (s : State) (d : Bytes) : (s.writeDigest d).resp = s.resp := rfl

@[simp] theorem setMsg_irqEn (s : State) (e : Engine) (m : Bytes) : (s.setMsg e m).irqEn = s.irqEn := rfl
@[simp] theorem setMsg_busy (s : State) (e : Engine) (m : Bytes) : (s.setMsg e m).busy = s.busy := rfl
@[simp] theorem setMsg_done (s : State) (e : Engine) (m : Bytes) : (s.setMsg e m).done = s.done := rfl
@[simp] theorem setMsg_drop (s : State) (e : Engine) (m : Bytes) : (s.setMsg e m).drop = s.drop := rfl
@[simp] theorem setMsg_fatal (s : State) (e : Engine) (m : Bytes) : (s.setMsg e m).fatal = s.fatal := rfl
@[simp] theorem setMsg_err (s : State) (e : Engine) (m : Bytes) : (s.setMsg e m).err = s.err := rfl
@[simp] theorem setMsg_variant (s : State) (e : Engine) (m : Bytes) : (s.setMsg e m).variant = s.variant := rfl
@[simp] theorem setMsg_inlen (s : State) (e : Engine) (m : Bytes) : (s.setMsg e m).inlen = s.inlen := rfl
@[simp] theorem setMsg_mem (s : State) (e : Engine) (m : Bytes) : (s.setMsg e m).mem = s.mem := rfl
@[simp] theorem setMsg_msgs (s : State) (e : Engine) (m : Bytes) : (s.setMsg e m).msgs = s.msgs.set e.num.val m e.num.isLt := rfl
@[simp] theorem setMsg_casc (s : State) (e : Engine) (m : Bytes) : (s.setMsg e m).casc = s.casc := rfl
@[simp] theorem setMsg_seqCur (s : State) (e : Engine) (m : Bytes) : (s.setMsg e m).seqCur = s.seqCur := rfl
@[simp] theorem setMsg_seqRes (s : State) (e : Engine) (m : Bytes) : (s.setMsg e m).seqRes = s.seqRes := rfl
@[simp] theorem setMsg_inbox (s : State) (e : Engine) (m : Bytes) : (s.setMsg e m).inbox = s.inbox := rfl
@[simp] theorem setMsg_latLeft (s : State) (e : Engine) (m : Bytes) : (s.setMsg e m).latLeft = s.latLeft := rfl
@[simp] theorem setMsg_draws (s : State) (e : Engine) (m : Bytes) : (s.setMsg e m).draws = s.draws := rfl
@[simp] theorem setMsg_resp (s : State) (e : Engine) (m : Bytes) : (s.setMsg e m).resp = s.resp := rfl

@[simp] theorem completionFlags_irqEn (s : State) (code : ResultCode) : (s.completionFlags code).irqEn = s.irqEn := rfl
@[simp] theorem completionFlags_busy (s : State) (code : ResultCode) : (s.completionFlags code).busy = false := rfl
@[simp] theorem completionFlags_done (s : State) (code : ResultCode) : (s.completionFlags code).done = true := rfl
@[simp] theorem completionFlags_drop (s : State) (code : ResultCode) : (s.completionFlags code).drop = s.drop := rfl
@[simp] theorem completionFlags_fatal (s : State) (code : ResultCode) : (s.completionFlags code).fatal = (s.fatal || code == .internal) := rfl
@[simp] theorem completionFlags_err (s : State) (code : ResultCode) : (s.completionFlags code).err = code := rfl
@[simp] theorem completionFlags_variant (s : State) (code : ResultCode) : (s.completionFlags code).variant = s.variant := rfl
@[simp] theorem completionFlags_inlen (s : State) (code : ResultCode) : (s.completionFlags code).inlen = s.inlen := rfl
@[simp] theorem completionFlags_mem (s : State) (code : ResultCode) : (s.completionFlags code).mem = s.mem := rfl
@[simp] theorem completionFlags_msgs (s : State) (code : ResultCode) : (s.completionFlags code).msgs = s.msgs := rfl
@[simp] theorem completionFlags_casc (s : State) (code : ResultCode) : (s.completionFlags code).casc = s.casc := rfl
@[simp] theorem completionFlags_seqCur (s : State) (code : ResultCode) : (s.completionFlags code).seqCur = s.seqCur := rfl
@[simp] theorem completionFlags_seqRes (s : State) (code : ResultCode) : (s.completionFlags code).seqRes = s.seqRes := rfl
@[simp] theorem completionFlags_inbox (s : State) (code : ResultCode) : (s.completionFlags code).inbox = s.inbox := rfl
@[simp] theorem completionFlags_latLeft (s : State) (code : ResultCode) : (s.completionFlags code).latLeft = s.latLeft := rfl
@[simp] theorem completionFlags_draws (s : State) (code : ResultCode) : (s.completionFlags code).draws = s.draws := rfl
@[simp] theorem completionFlags_resp (s : State) (code : ResultCode) : (s.completionFlags code).resp = s.resp := rfl

@[simp] theorem ackFlags_irqEn (s : State) (v : Word) : (s.ackFlags v).irqEn = s.irqEn := rfl
@[simp] theorem ackFlags_busy (s : State) (v : Word) : (s.ackFlags v).busy = s.busy := rfl
@[simp] theorem ackFlags_done (s : State) (v : Word) : (s.ackFlags v).done = (s.done && !v[1]) := rfl
@[simp] theorem ackFlags_drop (s : State) (v : Word) : (s.ackFlags v).drop = (s.drop && !v[2]) := rfl
@[simp] theorem ackFlags_fatal (s : State) (v : Word) : (s.ackFlags v).fatal = s.fatal := rfl
@[simp] theorem ackFlags_err (s : State) (v : Word) : (s.ackFlags v).err = s.err := rfl
@[simp] theorem ackFlags_variant (s : State) (v : Word) : (s.ackFlags v).variant = s.variant := rfl
@[simp] theorem ackFlags_inlen (s : State) (v : Word) : (s.ackFlags v).inlen = s.inlen := rfl
@[simp] theorem ackFlags_mem (s : State) (v : Word) : (s.ackFlags v).mem = s.mem := rfl
@[simp] theorem ackFlags_msgs (s : State) (v : Word) : (s.ackFlags v).msgs = s.msgs := rfl
@[simp] theorem ackFlags_casc (s : State) (v : Word) : (s.ackFlags v).casc = s.casc := rfl
@[simp] theorem ackFlags_seqCur (s : State) (v : Word) : (s.ackFlags v).seqCur = s.seqCur := rfl
@[simp] theorem ackFlags_seqRes (s : State) (v : Word) : (s.ackFlags v).seqRes = s.seqRes := rfl
@[simp] theorem ackFlags_inbox (s : State) (v : Word) : (s.ackFlags v).inbox = s.inbox := rfl
@[simp] theorem ackFlags_latLeft (s : State) (v : Word) : (s.ackFlags v).latLeft = s.latLeft := rfl
@[simp] theorem ackFlags_draws (s : State) (v : Word) : (s.ackFlags v).draws = s.draws := rfl
@[simp] theorem ackFlags_resp (s : State) (v : Word) : (s.ackFlags v).resp = s.resp := rfl

@[simp] theorem writeBufferWord_irqEn (s : State) (off : Nat) (v : Word) : (writeBufferWord off v s).irqEn = s.irqEn := rfl
@[simp] theorem writeBufferWord_busy (s : State) (off : Nat) (v : Word) : (writeBufferWord off v s).busy = s.busy := rfl
@[simp] theorem writeBufferWord_done (s : State) (off : Nat) (v : Word) : (writeBufferWord off v s).done = s.done := rfl
@[simp] theorem writeBufferWord_drop (s : State) (off : Nat) (v : Word) : (writeBufferWord off v s).drop = s.drop := rfl
@[simp] theorem writeBufferWord_fatal (s : State) (off : Nat) (v : Word) : (writeBufferWord off v s).fatal = s.fatal := rfl
@[simp] theorem writeBufferWord_err (s : State) (off : Nat) (v : Word) : (writeBufferWord off v s).err = s.err := rfl
@[simp] theorem writeBufferWord_variant (s : State) (off : Nat) (v : Word) : (writeBufferWord off v s).variant = s.variant := rfl
@[simp] theorem writeBufferWord_inlen (s : State) (off : Nat) (v : Word) : (writeBufferWord off v s).inlen = s.inlen := rfl
@[simp] theorem writeBufferWord_mem (s : State) (off : Nat) (v : Word) : (writeBufferWord off v s).mem = Memory.writeBytes s.mem off (toLe32 v) := rfl
@[simp] theorem writeBufferWord_msgs (s : State) (off : Nat) (v : Word) : (writeBufferWord off v s).msgs = s.msgs := rfl
@[simp] theorem writeBufferWord_casc (s : State) (off : Nat) (v : Word) : (writeBufferWord off v s).casc = s.casc := rfl
@[simp] theorem writeBufferWord_seqCur (s : State) (off : Nat) (v : Word) : (writeBufferWord off v s).seqCur = s.seqCur := rfl
@[simp] theorem writeBufferWord_seqRes (s : State) (off : Nat) (v : Word) : (writeBufferWord off v s).seqRes = s.seqRes := rfl
@[simp] theorem writeBufferWord_inbox (s : State) (off : Nat) (v : Word) : (writeBufferWord off v s).inbox = s.inbox := rfl
@[simp] theorem writeBufferWord_latLeft (s : State) (off : Nat) (v : Word) : (writeBufferWord off v s).latLeft = s.latLeft := rfl
@[simp] theorem writeBufferWord_draws (s : State) (off : Nat) (v : Word) : (writeBufferWord off v s).draws = s.draws := rfl
@[simp] theorem writeBufferWord_resp (s : State) (off : Nat) (v : Word) : (writeBufferWord off v s).resp = s.resp := rfl

@[simp] theorem takeEvent_irqEn (s : State) (rest : List HostEvent) : (takeEvent rest s).irqEn = s.irqEn := rfl
@[simp] theorem takeEvent_busy (s : State) (rest : List HostEvent) : (takeEvent rest s).busy = s.busy := rfl
@[simp] theorem takeEvent_done (s : State) (rest : List HostEvent) : (takeEvent rest s).done = s.done := rfl
@[simp] theorem takeEvent_drop (s : State) (rest : List HostEvent) : (takeEvent rest s).drop = s.drop := rfl
@[simp] theorem takeEvent_fatal (s : State) (rest : List HostEvent) : (takeEvent rest s).fatal = s.fatal := rfl
@[simp] theorem takeEvent_err (s : State) (rest : List HostEvent) : (takeEvent rest s).err = s.err := rfl
@[simp] theorem takeEvent_variant (s : State) (rest : List HostEvent) : (takeEvent rest s).variant = s.variant := rfl
@[simp] theorem takeEvent_inlen (s : State) (rest : List HostEvent) : (takeEvent rest s).inlen = s.inlen := rfl
@[simp] theorem takeEvent_mem (s : State) (rest : List HostEvent) : (takeEvent rest s).mem = s.mem := rfl
@[simp] theorem takeEvent_msgs (s : State) (rest : List HostEvent) : (takeEvent rest s).msgs = s.msgs := rfl
@[simp] theorem takeEvent_casc (s : State) (rest : List HostEvent) : (takeEvent rest s).casc = s.casc := rfl
@[simp] theorem takeEvent_seqCur (s : State) (rest : List HostEvent) : (takeEvent rest s).seqCur = s.seqCur := rfl
@[simp] theorem takeEvent_seqRes (s : State) (rest : List HostEvent) : (takeEvent rest s).seqRes = s.seqRes := rfl
@[simp] theorem takeEvent_inbox (s : State) (rest : List HostEvent) : (takeEvent rest s).inbox = rest := rfl
@[simp] theorem takeEvent_latLeft (s : State) (rest : List HostEvent) : (takeEvent rest s).latLeft = s.latLeft - 1 := rfl
@[simp] theorem takeEvent_draws (s : State) (rest : List HostEvent) : (takeEvent rest s).draws = s.draws := rfl
@[simp] theorem takeEvent_resp (s : State) (rest : List HostEvent) : (takeEvent rest s).resp = s.resp := rfl

@[simp] theorem issued_irqEn (s : State) (c : Word) : (issued c s).irqEn = s.irqEn := rfl
@[simp] theorem issued_busy (s : State) (c : Word) : (issued c s).busy = true := rfl
@[simp] theorem issued_done (s : State) (c : Word) : (issued c s).done = false := rfl
@[simp] theorem issued_drop (s : State) (c : Word) : (issued c s).drop = s.drop := rfl
@[simp] theorem issued_fatal (s : State) (c : Word) : (issued c s).fatal = s.fatal := rfl
@[simp] theorem issued_err (s : State) (c : Word) : (issued c s).err = s.err := rfl
@[simp] theorem issued_variant (s : State) (c : Word) : (issued c s).variant = s.variant := rfl
@[simp] theorem issued_inlen (s : State) (c : Word) : (issued c s).inlen = s.inlen := rfl
@[simp] theorem issued_mem (s : State) (c : Word) : (issued c s).mem = s.mem := rfl
@[simp] theorem issued_msgs (s : State) (c : Word) : (issued c s).msgs = s.msgs := rfl
@[simp] theorem issued_casc (s : State) (c : Word) : (issued c s).casc = s.casc := rfl
@[simp] theorem issued_seqCur (s : State) (c : Word) : (issued c s).seqCur = c := rfl
@[simp] theorem issued_seqRes (s : State) (c : Word) : (issued c s).seqRes = s.seqRes := rfl
@[simp] theorem issued_inbox (s : State) (c : Word) : (issued c s).inbox = s.inbox := rfl
@[simp] theorem issued_latLeft (s : State) (c : Word) : (issued c s).latLeft = 0 := rfl
@[simp] theorem issued_draws (s : State) (c : Word) : (issued c s).draws = s.draws := rfl
@[simp] theorem issued_resp (s : State) (c : Word) : (issued c s).resp = s.resp := rfl

@[simp] theorem resetBlock_irqEn (s : State) : (resetBlock s).irqEn = State.reset.irqEn := rfl
@[simp] theorem resetBlock_busy (s : State) : (resetBlock s).busy = State.reset.busy := rfl
@[simp] theorem resetBlock_done (s : State) : (resetBlock s).done = State.reset.done := rfl
@[simp] theorem resetBlock_drop (s : State) : (resetBlock s).drop = State.reset.drop := rfl
@[simp] theorem resetBlock_fatal (s : State) : (resetBlock s).fatal = State.reset.fatal := rfl
@[simp] theorem resetBlock_err (s : State) : (resetBlock s).err = State.reset.err := rfl
@[simp] theorem resetBlock_variant (s : State) : (resetBlock s).variant = State.reset.variant := rfl
@[simp] theorem resetBlock_inlen (s : State) : (resetBlock s).inlen = State.reset.inlen := rfl
@[simp] theorem resetBlock_mem (s : State) : (resetBlock s).mem = State.reset.mem := rfl
@[simp] theorem resetBlock_msgs (s : State) : (resetBlock s).msgs = State.reset.msgs := rfl
@[simp] theorem resetBlock_casc (s : State) : (resetBlock s).casc = State.reset.casc := rfl
@[simp] theorem resetBlock_seqCur (s : State) : (resetBlock s).seqCur = State.reset.seqCur := rfl
@[simp] theorem resetBlock_seqRes (s : State) : (resetBlock s).seqRes = State.reset.seqRes := rfl
@[simp] theorem resetBlock_inbox (s : State) : (resetBlock s).inbox = s.inbox := rfl
@[simp] theorem resetBlock_latLeft (s : State) : (resetBlock s).latLeft = State.reset.latLeft := rfl
@[simp] theorem resetBlock_draws (s : State) : (resetBlock s).draws = s.draws := rfl
@[simp] theorem resetBlock_resp (s : State) : (resetBlock s).resp = s.resp := rfl

@[simp] theorem okState_irqEn (s : State) : (s.okState).irqEn = s.irqEn := rfl
@[simp] theorem okState_busy (s : State) : (s.okState).busy = false := rfl
@[simp] theorem okState_done (s : State) : (s.okState).done = true := rfl
@[simp] theorem okState_drop (s : State) : (s.okState).drop = s.drop := rfl
@[simp] theorem okState_fatal (s : State) : (s.okState).fatal = s.fatal := rfl
@[simp] theorem okState_err (s : State) : (s.okState).err = .ok := rfl
@[simp] theorem okState_variant (s : State) : (s.okState).variant = s.variant := rfl
@[simp] theorem okState_inlen (s : State) : (s.okState).inlen = s.inlen := rfl
@[simp] theorem okState_mem (s : State) : (s.okState).mem = s.mem := rfl
@[simp] theorem okState_msgs (s : State) : (s.okState).msgs = s.msgs := rfl
@[simp] theorem okState_casc (s : State) : (s.okState).casc = s.casc := rfl
@[simp] theorem okState_seqCur (s : State) : (s.okState).seqCur = s.seqCur := rfl
@[simp] theorem okState_seqRes (s : State) : (s.okState).seqRes = {} := rfl
@[simp] theorem okState_inbox (s : State) : (s.okState).inbox = s.inbox := rfl
@[simp] theorem okState_latLeft (s : State) : (s.okState).latLeft = s.latLeft := rfl
@[simp] theorem okState_draws (s : State) : (s.okState).draws = s.draws := rfl
@[simp] theorem okState_resp (s : State) : (s.okState).resp = s.resp := rfl

@[simp] theorem errorState_irqEn (s : State) (code : ResultCode) : (s.errorState code).irqEn = s.irqEn := rfl
@[simp] theorem errorState_busy (s : State) (code : ResultCode) : (s.errorState code).busy = false := rfl
@[simp] theorem errorState_done (s : State) (code : ResultCode) : (s.errorState code).done = true := rfl
@[simp] theorem errorState_drop (s : State) (code : ResultCode) : (s.errorState code).drop = s.drop := rfl
@[simp] theorem errorState_fatal (s : State) (code : ResultCode) : (s.errorState code).fatal = s.fatal := rfl
@[simp] theorem errorState_err (s : State) (code : ResultCode) : (s.errorState code).err = code := rfl
@[simp] theorem errorState_variant (s : State) (code : ResultCode) : (s.errorState code).variant = s.variant := rfl
@[simp] theorem errorState_inlen (s : State) (code : ResultCode) : (s.errorState code).inlen = s.inlen := rfl
@[simp] theorem errorState_mem (s : State) (code : ResultCode) : (s.errorState code).mem = s.mem := rfl
@[simp] theorem errorState_msgs (s : State) (code : ResultCode) : (s.errorState code).msgs = s.msgs := rfl
@[simp] theorem errorState_casc (s : State) (code : ResultCode) : (s.errorState code).casc = s.casc := rfl
@[simp] theorem errorState_seqCur (s : State) (code : ResultCode) : (s.errorState code).seqCur = s.seqCur := rfl
@[simp] theorem errorState_seqRes (s : State) (code : ResultCode) : (s.errorState code).seqRes = s.seqRes := rfl
@[simp] theorem errorState_inbox (s : State) (code : ResultCode) : (s.errorState code).inbox = s.inbox := rfl
@[simp] theorem errorState_latLeft (s : State) (code : ResultCode) : (s.errorState code).latLeft = s.latLeft := rfl
@[simp] theorem errorState_draws (s : State) (code : ResultCode) : (s.errorState code).draws = s.draws := rfl
@[simp] theorem errorState_resp (s : State) (code : ResultCode) : (s.errorState code).resp = s.resp := rfl

@[simp] theorem reset_irqEn : State.reset.irqEn = false := rfl
@[simp] theorem reset_busy : State.reset.busy = false := rfl
@[simp] theorem reset_done : State.reset.done = false := rfl
@[simp] theorem reset_drop : State.reset.drop = false := rfl
@[simp] theorem reset_fatal : State.reset.fatal = false := rfl
@[simp] theorem reset_err : State.reset.err = .ok := rfl
@[simp] theorem reset_variant : State.reset.variant = 0#32 := rfl
@[simp] theorem reset_inlen : State.reset.inlen = 0#8 := rfl
@[simp] theorem reset_mem : State.reset.mem = [] := rfl
@[simp] theorem reset_msgs : State.reset.msgs = Vector.replicate 17 [] := rfl
@[simp] theorem reset_casc : State.reset.casc = Cascade.reset := rfl
@[simp] theorem reset_seqCur : State.reset.seqCur = 0#32 := rfl
@[simp] theorem reset_seqRes : State.reset.seqRes = {} := rfl
@[simp] theorem reset_inbox : State.reset.inbox = [] := rfl
@[simp] theorem reset_latLeft : State.reset.latLeft = 0 := rfl
@[simp] theorem reset_draws : State.reset.draws = 0 := rfl
@[simp] theorem reset_resp : State.reset.resp = none := rfl

@[simp] theorem cascade_reset_wbuf_length : Cascade.reset.wbuf.length = 128 := List.length_replicate

/-- The message of every engine is empty after reset (R53). -/
@[simp] theorem reset_msg (e : Engine) : State.reset.msg e = [] := by
  simp [State.msg]

/-- Engine numbers name different engines (R2). -/
theorem engine_num_inj {a b : Engine} (h : a.num = b.num) : a = b := by
  cases a <;> cases b <;> first | rfl | exact absurd h (by decide)

/-- The message that was just set (R45). -/
@[simp] theorem setMsg_msg_same (s : State) (e : Engine) (m : Bytes) : (s.setMsg e m).msg e = m := by
  simp [State.msg]

/-- The other engines' messages stay (R137). -/
theorem setMsg_msg_other (s : State) (m : Bytes) {e e' : Engine} (h : e' ≠ e) :
    (s.setMsg e m).msg e' = s.msg e' := by
  have hn : e.num.val ≠ e'.num.val := fun hv => h (engine_num_inj (Fin.ext hv)).symm
  simp only [State.msg, setMsg_msgs, Fin.getElem_fin]
  exact Vector.getElem_set_ne e.num.isLt e'.num.isLt hn

/-- Setting a message to what it is changes nothing. -/
@[simp] theorem setMsg_msg_self (s : State) (e : Engine) : s.setMsg e (s.msg e) = s := by
  simp [State.setMsg, State.msg]

/-- The later of two settings of one message holds. -/
@[simp] theorem setMsg_setMsg (s : State) (e : Engine) (m m' : Bytes) :
    (s.setMsg e m).setMsg e m' = s.setMsg e m' := by
  simp [State.setMsg]

end Sys2Proof.Machine
end

