-- ==== Sys2Proof/Laws/Ops.lean ====
section
/-!
SUPPORT. Laws/Ops.lean: everything the shared operations can do: completion with its commit, raising an error, issue,
guarded writes, writes to CTRL and STATUS, and the engine operand.
-/

namespace Sys2Proof.Machine

/-- A normal completion with nothing staged (R133). -/
theorem finish_nothing (s : State) :
    finish {} s = s.okState := by
  simp [finish, complete, State.commit, State.completionFlags, State.okState]

/-- A normal completion that stages a message (R133). -/
theorem finish_msg (s : State) (e : Engine) (m : Bytes) :
    finish { msg := some (e, m) } s =
      (s.setMsg e m).okState := by
  simp [finish, complete, State.commit, State.completionFlags, State.setMsg, State.okState]

/-- A normal completion that stages a digest for DIGEST (R133, R279). -/
theorem finish_digest (s : State) (d : Bytes) :
    finish { digest := some d } s =
      (s.writeDigest d).okState := by
  simp [finish, complete, State.commit, State.completionFlags, State.writeDigest, State.okState]

/-- A normal completion that stages bytes for DBUF and a message (R133, R142). -/
theorem finish_dbuf_msg (s : State) (off : Nat) (d : Bytes) (e : Engine) (m : Bytes) :
    finish { dbuf := some (off, d), msg := some (e, m) } s =
      ((s.writeDbuf off d).setMsg e m).okState := by
  simp [finish, complete, State.commit, State.completionFlags, State.setMsg, State.writeDbuf, State.okState]

/-- An error: only the STATUS fields change, FATAL by INTERNAL alone (R133, R307). -/
theorem raise_eq (s : State) {code : ResultCode} (h : code ≠ .ok) :
    raise code s = { s.errorState code with fatal := s.fatal || code == .internal } := by
  simp [raise, complete, h, State.completionFlags, State.errorState]

/-- An error other than INTERNAL leaves FATAL alone (R307). -/
theorem raise_ordinary (s : State) {code : ResultCode} (h : code ≠ .ok) (hi : code ≠ .internal) :
    raise code s = s.errorState code := by
  rw [raise_eq s h]
  simp [hi, State.errorState]

/-- A dropped issue (R134). -/
theorem issue_dropped {s : State} (c : Word) (h : s.busy = true ∨ s.fatal = true) :
    issue c s = { s with drop := true } := by
  rcases h with h | h <;> simp [issue, h]

/-- An accepted issue (R132). -/
theorem issue_accepted {s : State} (c : Word) (hb : s.busy = false) (hf : s.fatal = false) :
    issue c s =
      { s with seqCur := c, done := false, busy := true, latLeft := Config.lat s.draws (latencyKey c s),
               draws := s.draws + 1 } := by
  simp [issue, hb, hf]

/-- A guarded write while a command runs (R134). -/
theorem guardedWrite_busy {s : State} (f : State → State) (h : s.busy = true) :
    guardedWrite f s = { s with drop := true } := by simp [guardedWrite, h]

/-- A guarded write while the block is idle (R134). -/
theorem guardedWrite_idle {s : State} (f : State → State) (h : s.busy = false) : guardedWrite f s = f s := by
  simp [guardedWrite, h]

/-- A write to CTRL without SRST (R32). -/
theorem writeCtrl_plain (s : State) {v : Word} (h : v[1] = false) :
    writeCtrl v s = { s with irqEn := v[0] } := by simp [writeCtrl, h]

/-- A write to CTRL with SRST (R332). -/
theorem writeCtrl_srst (s : State) {v : Word} (h : v[1] = true) : writeCtrl v s = resetBlock s := by
  simp [writeCtrl, h]

/-- ENG values 17 to 31 name no engine (R104). -/
theorem engineOf?_none {eng : BitVec 5} (h : 16 < eng.toNat) : engineOf? eng = none := by
  simp [engineOf?, Engine.all]
  omega

/-- ENG values 0 to 16 name the engine of that number (R2). -/
theorem engineOf?_some {eng : BitVec 5} {e : Engine} (h : engineOf? eng = some e) : e.num.val = eng.toNat := by
  obtain ⟨⟨n, hn⟩⟩ := eng
  revert e
  interval_cases n <;> (intro e h; simp [engineOf?, Engine.all] at h <;> subst h <;> rfl)

/-- An ENG field names an engine exactly when it is well formed (R104). -/
theorem engineOf?_isSome (eng : BitVec 5) : (engineOf? eng).isSome = engOk eng := by
  revert eng; decide

/-- The field that holds an engine's number names it (R2). -/
@[simp] theorem engineOf?_field (e : Engine) : engineOf? e.field = some e := by
  cases e <;> rfl

/-- Digest widths fit in the data buffer at offset 0 (R142). -/
theorem digestLen_le (e : Engine) : e.digestLen ≤ 64 := by cases e <;> decide

/-- n(VARIANT) is 112 or 80 (R272). -/
theorem inputLen_cases (v : Word) : inputLen v = 112 ∨ inputLen v = 80 := by
  unfold inputLen; split <;> simp

end Sys2Proof.Machine
end

