-- ==== Sys2Proof/Laws/Bus.lean ====
section
/-!
SUPPORT. Laws/Bus.lean: everything a bus access can do.
-/

namespace Sys2Proof.Machine

/-- A read only answers (R73). -/
theorem busAccess_read {off : BitVec 10} (h : off.toNat % 4 = 0) (s : State) :
    busAccess off .bits32 .read s = { s with resp := some (.data (memRead s off.toNat)) } := by
  simp [busAccess, accessOk, h]

/-- A write has the effect of its target, and is answered (R74). -/
theorem busAccess_write {off : BitVec 10} (h : off.toNat % 4 = 0) (v : BitVec 64) (s : State) :
    busAccess off .bits32 (.write v) s = { memWrite off.toNat (v.setWidth 32) s with resp := some .written } := by
  simp [busAccess, accessOk, h]

/-- An access of another width or alignment only gets a bus error (R77). -/
theorem busAccess_error {off : BitVec 10} {w : Width} (h : accessOk off w = false) (d : Dir) (s : State) :
    busAccess off w d s = { s with resp := some (.busError off) } := by
  simp [busAccess, h]

/-- CTRL stands at offset 0x004 alone (R70). -/
theorem target_ctrl {off : Nat} (h : target off = .ctrl) : off = 0x004 := by
  unfold target at h
  split_ifs at h
  assumption

/-- Everything a write of v at an offset can do to the block (R32, R33, R74, R132, R134). -/
inductive WriteEffect (off : Nat) (v : Word) (s : State) : State → Prop where
  | ignored : WriteEffect off v s s
  | irqEnable : off = 0x004 → v[1] = false → WriteEffect off v s { s with irqEn := v[0] }
  | softReset : off = 0x004 → v[1] = true → WriteEffect off v s (resetBlock s)
  | acknowledged : WriteEffect off v s (s.ackFlags v)
  | issued : s.busy = false → s.fatal = false → WriteEffect off v s (issue v s)
  | dropped : WriteEffect off v s { s with drop := true }
  | variant : s.busy = false → WriteEffect off v s { s with variant := v }
  | inlen : s.busy = false → WriteEffect off v s { s with inlen := v.setWidth 8 }
  | buffer : s.busy = false → target off = .inbuf ∨ target off = .dbuf →
      WriteEffect off v s (writeBufferWord off v s)

theorem memWrite_effect (off : Nat) (v : Word) (s : State) : WriteEffect off v s (memWrite off v s) := by
  unfold memWrite
  cases ht : target off <;> simp only [acknowledge]
  case id => exact .ignored
  case digest => exact .ignored
  case reserved => exact .ignored
  case status => exact .acknowledged
  case ctrl =>
    cases hv : v[1]
    · rw [writeCtrl_plain s hv]; exact .irqEnable (target_ctrl ht) hv
    · rw [writeCtrl_srst s hv]; exact .softReset (target_ctrl ht) hv
  case cmd =>
    cases hb : s.busy
    · cases hf : s.fatal
      · exact .issued hb hf
      · rw [issue_dropped v (Or.inr hf)]; exact .dropped
    · rw [issue_dropped v (Or.inl hb)]; exact .dropped
  case variant =>
    cases hb : s.busy
    · rw [guardedWrite_idle _ hb]; exact .variant hb
    · rw [guardedWrite_busy _ hb]; exact .dropped
  case inlen =>
    cases hb : s.busy
    · rw [guardedWrite_idle _ hb]; exact .inlen hb
    · rw [guardedWrite_busy _ hb]; exact .dropped
  case inbuf =>
    cases hb : s.busy
    · rw [guardedWrite_idle _ hb]; exact .buffer hb (Or.inl ht)
    · rw [guardedWrite_busy _ hb]; exact .dropped
  case dbuf =>
    cases hb : s.busy
    · rw [guardedWrite_idle _ hb]; exact .buffer hb (Or.inr ht)
    · rw [guardedWrite_busy _ hb]; exact .dropped

/-- Everything a bus access can do: answer alone, or have the effect of an aligned write and answer (R72 to R77). -/
theorem busAccess_effect (off : BitVec 10) (w : Width) (d : Dir) (s : State) :
    (∃ r, busAccess off w d s = { s with resp := some r }) ∨
    (∃ v t, w = .bits32 ∧ off.toNat % 4 = 0 ∧ d = .write v ∧ t = memWrite off.toNat (v.setWidth 32) s ∧
      WriteEffect off.toNat (v.setWidth 32) s t ∧ busAccess off w d s = { t with resp := some .written }) := by
  cases h : accessOk off w
  · exact .inl ⟨_, busAccess_error h d s⟩
  · have hw : w = .bits32 ∧ off.toNat % 4 = 0 := by simpa [accessOk] using h
    obtain ⟨rfl, h4⟩ := hw
    cases d with
    | read => exact .inl ⟨_, busAccess_read h4 s⟩
    | write v => exact .inr ⟨v, _, rfl, h4, rfl, rfl, memWrite_effect _ _ s, busAccess_write h4 v s⟩

/-- Where the two writable buffers stand in the address map (R70). -/
theorem target_buffer {off : Nat} (h : target off = .inbuf ∨ target off = .dbuf) :
    (0x100 ≤ off ∧ off < 0x170) ∨ (0x200 ≤ off ∧ off < 0x280) := by
  by_contra hn
  have h1 : ¬ (inbufBase ≤ off ∧ off < inbufBase + inbufSize) := by
    simp only [inbufBase, inbufSize]; omega
  have h2 : ¬ (dbufBase ≤ off ∧ off < dbufBase + dbufSize) := by
    simp only [dbufBase, dbufSize]; omega
  unfold target at h
  rw [if_neg h1, if_neg h2] at h
  revert h
  split_ifs <;> simp

/-- The words of INBUF and DBUF lie whole inside their windows (R70, R72). -/
theorem inBuffer_of_target {off : Nat} (h : target off = .inbuf ∨ target off = .dbuf) (h4 : off % 4 = 0) {i : Nat}
    (hi : i < 4) : inBuffer (off + i) = true := by
  have := target_buffer h
  simp only [inBuffer, Bool.or_eq_true, Bool.and_eq_true, decide_eq_true_eq]
  simp only [inbufBase, inbufSize, dbufBase, dbufSize, digestBase, digestSize]
  omega

/-- The physical addresses of the block are BASE plus an offset (R70, R71). -/
theorem blockOffset?_base (off : BitVec 10) : blockOffset? (Config.base + off.toNat) = some off := by
  have := off.isLt
  simp [blockOffset?, Config.span]
  omega

/-- An address that is the block's is BASE plus the offset it is served at (R70, R71). -/
theorem blockOffset?_some {addr : Nat} {off : BitVec 10} (h : blockOffset? addr = some off) :
    addr = Config.base + off.toNat := by
  unfold blockOffset? Config.span at h
  split at h
  · cases h
    rw [BitVec.toNat_ofNat]
    omega
  · cases h

end Sys2Proof.Machine
end

