-- ==== Sys2Proof/Laws/Decode.lean ====
section
/-!
SUPPORT. Laws/Decode.lean: a command word as its five fields, and when a word matches each row of the opcode map.
-/

namespace Sys2Proof

/-- A word is its fields, side by side (R100). -/
theorem word_fields (c : Word) :
    c = (fieldLen c ++ (fieldOff c ++ (fieldRsv c ++ (fieldEng c ++ fieldOpc c)))).cast (by decide) := by
  apply BitVec.eq_of_getLsbD_eq
  intro i hi
  simp only [fieldLen, fieldOff, fieldRsv, fieldEng, fieldOpc, BitVec.getLsbD_cast, BitVec.getLsbD_append,
    BitVec.getLsbD_extractLsb']
  split_ifs <;> simp_all <;> (intro _; omega)

/-- Two words are the same when their fields are. -/
theorem word_ext {c d : Word} (h0 : fieldOpc c = fieldOpc d) (h1 : fieldEng c = fieldEng d)
    (h2 : fieldRsv c = fieldRsv d) (h3 : fieldOff c = fieldOff d) (h4 : fieldLen c = fieldLen d) : c = d := by
  rw [word_fields c, word_fields d, h0, h1, h2, h3, h4]

@[simp] theorem fieldOpc_and (c d : Word) : fieldOpc (c &&& d) = fieldOpc c &&& fieldOpc d := BitVec.extractLsb'_and
@[simp] theorem fieldEng_and (c d : Word) : fieldEng (c &&& d) = fieldEng c &&& fieldEng d := BitVec.extractLsb'_and
@[simp] theorem fieldRsv_and (c d : Word) : fieldRsv (c &&& d) = fieldRsv c &&& fieldRsv d := BitVec.extractLsb'_and
@[simp] theorem fieldOff_and (c d : Word) : fieldOff (c &&& d) = fieldOff c &&& fieldOff d := BitVec.extractLsb'_and
@[simp] theorem fieldLen_and (c d : Word) : fieldLen (c &&& d) = fieldLen c &&& fieldLen d := BitVec.extractLsb'_and

/-- The fields of a word built by R100. -/
theorem buildWord_fields (opc : BitVec 8) (eng : BitVec 5) (off len : BitVec 8) :
    fieldOpc (buildWord opc eng off len) = opc ∧ fieldEng (buildWord opc eng off len) = eng ∧
    fieldRsv (buildWord opc eng off len) = 0#3 ∧ fieldOff (buildWord opc eng off len) = off ∧
    fieldLen (buildWord opc eng off len) = len := by
  refine ⟨?_, ?_, ?_, ?_, ?_⟩ <;>
  · apply BitVec.eq_of_getLsbD_eq
    intro i hi
    simp only [fieldOpc, fieldEng, fieldRsv, fieldOff, fieldLen, buildWord]
    interval_cases i <;> simp

/-- A word matches a row exactly when its fields match the row's, under the row's mask. -/
theorem matchesWord_iff (r : OpcodeRow) (c : Word) :
    r.matchesWord c = true ↔
      fieldOpc c &&& fieldOpc r.maskBits = fieldOpc r.matchBits ∧ fieldEng c &&& fieldEng r.maskBits = fieldEng r.matchBits ∧
      fieldRsv c &&& fieldRsv r.maskBits = fieldRsv r.matchBits ∧ fieldOff c &&& fieldOff r.maskBits = fieldOff r.matchBits ∧
      fieldLen c &&& fieldLen r.maskBits = fieldLen r.matchBits := by
  simp only [OpcodeRow.matchesWord, beq_iff_eq]
  constructor
  · intro h
    simp only [← h, fieldOpc_and, fieldEng_and, fieldRsv_and, fieldOff_and, fieldLen_and, and_self]
  · rintro ⟨h0, h1, h2, h3, h4⟩
    exact word_ext (by simpa using h0) (by simpa using h1) (by simpa using h2) (by simpa using h3) (by simpa using h4)

theorem and_ones8 (x : BitVec 8) : x &&& 255#8 = x := BitVec.and_allOnes
theorem and_ones5 (x : BitVec 5) : x &&& 31#5 = x := BitVec.and_allOnes
theorem and_ones3 (x : BitVec 3) : x &&& 7#3 = x := BitVec.and_allOnes

/-- The words of the row NOP (R102). -/
theorem matches_nop (c : Word) : (OpcodeRow.mk .nop 0x00000000 0xFFFFFFFF).matchesWord c = true ↔
    fieldOpc c = 0x00#8 ∧ fieldEng c = 0#5 ∧ fieldRsv c = 0#3 ∧ fieldOff c = 0#8 ∧ fieldLen c = 0#8 := by
  simp [matchesWord_iff, and_ones8, and_ones5, and_ones3,
    show fieldOpc 4294967295#32 = 255#8 from rfl, show fieldEng 4294967295#32 = 31#5 from rfl,
    show fieldRsv 4294967295#32 = 7#3 from rfl, show fieldOff 4294967295#32 = 255#8 from rfl,
    show fieldLen 4294967295#32 = 255#8 from rfl, show fieldOpc 0#32 = 0#8 from rfl,
    show fieldEng 0#32 = 0#5 from rfl, show fieldRsv 0#32 = 0#3 from rfl,
    show fieldOff 0#32 = 0#8 from rfl, show fieldLen 0#32 = 0#8 from rfl]

/-- The words of the row XEVAN (R102). -/
theorem matches_xevan (c : Word) : (OpcodeRow.mk .xevan 0x00000001 0xFFFFFFFF).matchesWord c = true ↔
    fieldOpc c = 0x01#8 ∧ fieldEng c = 0#5 ∧ fieldRsv c = 0#3 ∧ fieldOff c = 0#8 ∧ fieldLen c = 0#8 := by
  simp [matchesWord_iff, and_ones8, and_ones5, and_ones3,
    show fieldOpc 4294967295#32 = 255#8 from rfl, show fieldEng 4294967295#32 = 31#5 from rfl,
    show fieldRsv 4294967295#32 = 7#3 from rfl, show fieldOff 4294967295#32 = 255#8 from rfl,
    show fieldLen 4294967295#32 = 255#8 from rfl, show fieldOpc 1#32 = 1#8 from rfl,
    show fieldEng 1#32 = 0#5 from rfl, show fieldRsv 1#32 = 0#3 from rfl,
    show fieldOff 1#32 = 0#8 from rfl, show fieldLen 1#32 = 0#8 from rfl]

/-- The words of the row EINIT (R102). -/
theorem matches_einit (c : Word) : (OpcodeRow.mk .einit 0x00000010 0xFFFFE0FF).matchesWord c = true ↔
    fieldOpc c = 0x10#8 ∧ fieldRsv c = 0#3 ∧ fieldOff c = 0#8 ∧ fieldLen c = 0#8 := by
  simp [matchesWord_iff, and_ones8, and_ones3,
    show fieldOpc 4294959359#32 = 255#8 from rfl, show fieldEng 4294959359#32 = 0#5 from rfl,
    show fieldRsv 4294959359#32 = 7#3 from rfl, show fieldOff 4294959359#32 = 255#8 from rfl,
    show fieldLen 4294959359#32 = 255#8 from rfl, show fieldOpc 16#32 = 16#8 from rfl,
    show fieldEng 16#32 = 0#5 from rfl, show fieldRsv 16#32 = 0#3 from rfl,
    show fieldOff 16#32 = 0#8 from rfl, show fieldLen 16#32 = 0#8 from rfl]

/-- The words of the row EABSORB (R102). -/
theorem matches_eabsorb (c : Word) : (OpcodeRow.mk .eabsorb 0x00000011 0x0000E0FF).matchesWord c = true ↔
    fieldOpc c = 0x11#8 ∧ fieldRsv c = 0#3 := by
  simp [matchesWord_iff, and_ones8, and_ones3,
    show fieldOpc 57599#32 = 255#8 from rfl, show fieldEng 57599#32 = 0#5 from rfl,
    show fieldRsv 57599#32 = 7#3 from rfl, show fieldOff 57599#32 = 0#8 from rfl,
    show fieldLen 57599#32 = 0#8 from rfl, show fieldOpc 17#32 = 17#8 from rfl,
    show fieldEng 17#32 = 0#5 from rfl, show fieldRsv 17#32 = 0#3 from rfl,
    show fieldOff 17#32 = 0#8 from rfl, show fieldLen 17#32 = 0#8 from rfl]

/-- The words of the row EFINAL (R102). -/
theorem matches_efinal (c : Word) : (OpcodeRow.mk .efinal 0x00000012 0xFF00E0FF).matchesWord c = true ↔
    fieldOpc c = 0x12#8 ∧ fieldRsv c = 0#3 ∧ fieldLen c = 0#8 := by
  simp [matchesWord_iff, and_ones8, and_ones3,
    show fieldOpc 4278247679#32 = 255#8 from rfl, show fieldEng 4278247679#32 = 0#5 from rfl,
    show fieldRsv 4278247679#32 = 7#3 from rfl, show fieldOff 4278247679#32 = 0#8 from rfl,
    show fieldLen 4278247679#32 = 255#8 from rfl, show fieldOpc 18#32 = 18#8 from rfl,
    show fieldEng 18#32 = 0#5 from rfl, show fieldRsv 18#32 = 0#3 from rfl,
    show fieldOff 18#32 = 0#8 from rfl, show fieldLen 18#32 = 0#8 from rfl]

/-- The decoder, row by row in terms of the fields (R105). -/
theorem decode_fields (c : Word) :
    decode c =
      if fieldOpc c = 0x00#8 ∧ fieldEng c = 0#5 ∧ fieldRsv c = 0#3 ∧ fieldOff c = 0#8 ∧ fieldLen c = 0#8 then .instr .nop
      else if fieldOpc c = 0x01#8 ∧ fieldEng c = 0#5 ∧ fieldRsv c = 0#3 ∧ fieldOff c = 0#8 ∧ fieldLen c = 0#8 then
        .instr .xevan
      else if fieldOpc c = 0x10#8 ∧ fieldRsv c = 0#3 ∧ fieldOff c = 0#8 ∧ fieldLen c = 0#8 then
        if engOk (fieldEng c) then .instr (.einit (fieldEng c)) else .error .badEng
      else if fieldOpc c = 0x11#8 ∧ fieldRsv c = 0#3 then
        if engOk (fieldEng c) then .instr (.eabsorb (fieldEng c) (fieldOff c) (fieldLen c)) else .error .badEng
      else if fieldOpc c = 0x12#8 ∧ fieldRsv c = 0#3 ∧ fieldLen c = 0#8 then
        if engOk (fieldEng c) then .instr (.efinal (fieldEng c) (fieldOff c)) else .error .badEng
      else .error .illegal := by
  simp only [decode, opcodeMap, List.find?_cons, List.find?_nil]
  simp only [← matches_nop, ← matches_xevan, ← matches_einit, ← matches_eabsorb, ← matches_efinal]
  cases (OpcodeRow.mk .nop 0x00000000 0xFFFFFFFF).matchesWord c
  · cases (OpcodeRow.mk .xevan 0x00000001 0xFFFFFFFF).matchesWord c
    · cases (OpcodeRow.mk .einit 0x00000010 0xFFFFE0FF).matchesWord c
      · cases (OpcodeRow.mk .eabsorb 0x00000011 0x0000E0FF).matchesWord c
        · cases (OpcodeRow.mk .efinal 0x00000012 0xFF00E0FF).matchesWord c <;> rfl
        · rfl
      · rfl
    · rfl
  · rfl

end Sys2Proof
end

