-- ==== Sys2Proof/Laws/Engines.lean ====
section
/-!
SUPPORT. Laws/Engines.lean: the digest width of each engine whose digest is put together from its words or bytes.
-/

namespace Sys2Proof.Machine

theorem hashBlake_length (m : Bytes) : (hashBlake m).length = 64 :=
  length_flatMap_range 8 8 _ fun _ => toBe64_length _

theorem hashBmw_length (m : Bytes) : (hashBmw m).length = 64 :=
  length_flatMap_range 8 8 _ fun _ => toLe64_length _

theorem hashGroestl_length (m : Bytes) : (hashGroestl m).length = 64 := tab_length 64 _

theorem hashSkein_length (m : Bytes) : (hashSkein m).length = 64 :=
  length_flatMap_range 8 8 _ fun _ => toLe64_length _

theorem hashJh_length (m : Bytes) : (hashJh m).length = 64 := tab_length 64 _

theorem hashKeccak_length (m : Bytes) : (hashKeccak m).length = 64 :=
  length_flatMap_range 8 8 _ fun _ => toLe64_length _

theorem hashCubeHash_length (m : Bytes) : (hashCubeHash m).length = 64 :=
  length_flatMap_range 16 4 _ fun _ => toLe32_length _

theorem hashEcho_length (m : Bytes) : (hashEcho m).length = 64 := tab_length 64 _

theorem hashShabal_length (m : Bytes) : (hashShabal m).length = 64 :=
  length_flatMap_range 16 4 _ fun _ => toLe32_length _

theorem hashWhirlpool_length (m : Bytes) : (hashWhirlpool m).length = 64 := tab_length 64 _

theorem hashSha512_length (m : Bytes) : (hashSha512 m).length = 64 :=
  length_flatMap_range 8 8 _ fun _ => toBe64_length _

theorem hashHaval_length (m : Bytes) : (hashHaval m).length = 32 :=
  length_flatMap_range 8 4 _ fun _ => toLe32_length _

end Sys2Proof.Machine
end

