-- ==== Sys2Proof/Laws/Orchestrator.lean ====
section
/-!
SUPPORT. Laws/Orchestrator.lean: what one stage of the cascade does, and the widths of the working buffer.
-/

namespace Sys2Proof.Machine

/-- A digest over the front of a buffer keeps its width (R276). -/
theorem overwriteFront_length {buf d : Bytes} (h : d.length ≤ buf.length) :
    (overwriteFront buf d).length = buf.length := by
  simp [overwriteFront]; omega

/-- One stage whose absorb has the width of R287 (R270). -/
theorem runStage_some (H : EngineSet) {n : Nat} {x : Bytes} {p : Pass} {e : Engine} {c : Cascade}
    (h : (stageInput p e x c.wbuf).length = stageWidth p e n) :
    runStage H n x p e c =
      some { ctx := c.ctx.set e.num.val [] e.num.isLt
             wbuf := overwriteFront c.wbuf (H e (stageInput p e x c.wbuf))
             pass := p
             stage := e.num.val + 1 } := by
  simp [runStage, h, Cascade.setCtx]

/-- One stage whose absorb has another width (R287). -/
theorem runStage_none (H : EngineSet) {n : Nat} {x : Bytes} {p : Pass} {e : Engine} {c : Cascade}
    (h : (stageInput p e x c.wbuf).length ≠ stageWidth p e n) : runStage H n x p e c = none := by
  simp [runStage, h]

/-- Stages run one after the other. -/
theorem runStages_cons (H : EngineSet) (n : Nat) (x : Bytes) (p : Pass) (e : Engine) (es : List Engine)
    (c : Cascade) : runStages H n x p (e :: es) c = (runStage H n x p e c).bind (runStages H n x p es) := by
  simp only [runStages]
  cases runStage H n x p e c <;> rfl

/-- A stage function keeps the width of its buffer (R288). -/
theorem stageFn_length {H : EngineSet} (hH : EngineWidths H) (e : Engine) {b : Bytes} (hb : b.length = 128) :
    (stageFn H e b).length = 128 := by
  have := digestLen_le e
  simp [stageFn, hH e b]; omega

end Sys2Proof.Machine
end

