-- ==== Sys2Proof/Laws/PerInstr.lean ====
section
/-!
SUPPORT. Laws/PerInstr.lean: the family `RowFit`, one lemma per command: the command's word matches the row of the
opcode map that has its mnemonic (spec R102).
-/

namespace Sys2Proof.Laws

/-- The row of the opcode map that has the command's mnemonic is matched by the command's word (R102). -/
def RowFit.Statement (i : Instr) : Prop :=
  ∃ r ∈ opcodeMap, r.mnemonic = i.mnemonic ∧ r.matchesWord (encode i) = true

theorem RowFit.nop : RowFit.Statement .nop := ⟨⟨.nop, 0x00000000, 0xFFFFFFFF⟩, by decide, rfl, rfl⟩

theorem RowFit.xevan : RowFit.Statement .xevan := ⟨⟨.xevan, 0x00000001, 0xFFFFFFFF⟩, by decide, rfl, rfl⟩

theorem RowFit.einit (eng : BitVec 5) : RowFit.Statement (.einit eng) :=
  ⟨⟨.einit, 0x00000010, 0xFFFFE0FF⟩, by decide, rfl, by revert eng; decide⟩

/-- A mask that keeps bits of OPC and RSV alone leaves the opcode of any word built by R100. -/
theorem buildWord_mask {mask : Word} (opc : BitVec 8) (eng : BitVec 5) (off len : BitVec 8)
    (he : eng.setWidth 32 <<< 8 &&& mask = 0#32) (ho : off.setWidth 32 <<< 16 &&& mask = 0#32)
    (hl : len.setWidth 32 <<< 24 &&& mask = 0#32) :
    buildWord opc eng off len &&& mask = opc.setWidth 32 &&& mask := by
  have dist : ∀ a b c : Word, (a ||| b) &&& c = (a &&& c) ||| (b &&& c) := fun a b c =>
    BitVec.eq_of_getLsbD_eq fun i _ => by simp [Bool.and_or_distrib_right]
  simp only [buildWord, dist, he, ho, hl, BitVec.or_zero]

theorem RowFit.eabsorb (eng : BitVec 5) (off len : BitVec 8) : RowFit.Statement (.eabsorb eng off len) := by
  refine ⟨⟨.eabsorb, 0x00000011, 0x0000E0FF⟩, by decide, rfl, ?_⟩
  simp only [OpcodeRow.matchesWord, encode, beq_iff_eq]
  rw [buildWord_mask]
  · rfl
  · revert eng; decide
  · revert off; decide +kernel
  · revert len; decide +kernel

theorem RowFit.efinal (eng : BitVec 5) (off : BitVec 8) : RowFit.Statement (.efinal eng off) := by
  refine ⟨⟨.efinal, 0x00000012, 0xFF00E0FF⟩, by decide, rfl, ?_⟩
  simp only [OpcodeRow.matchesWord, encode, beq_iff_eq]
  rw [buildWord_mask]
  · rfl
  · revert eng; decide
  · revert off; decide +kernel
  · rfl

end Sys2Proof.Laws
end

