-- ==== Sys2Proof/Laws/Step.lean ====
section
/-!
SUPPORT. Laws/Step.lean: everything the commands and a step can do.
-/

namespace Sys2Proof.Machine

/-- Everything a command can do (R133): an error that changes STATUS alone, or a normal completion of the results it
staged; XEVAN's comes with a new private state. -/
inductive CommandEffect (s : State) : State → Prop where
  | error (code : ResultCode) : code ≠ .ok → CommandEffect s (raise code s)
  | nothing : CommandEffect s (finish {} s)
  | message (e : Engine) (m : Bytes) : m.length ≤ Config.maxMsg → CommandEffect s (finish { msg := some (e, m) } s)
  | digest (off : Nat) (e : Engine) : off + e.digestLen ≤ dbufSize →
      CommandEffect s (finish { dbuf := some (off, e.hash (s.msg e)), msg := some (e, []) } s)
  | cascade (c : Cascade) :
      runCascade Engine.hash (inputLen s.variant) (s.inbuf (inputLen s.variant)) s.casc = some c →
      CommandEffect s (finish { digest := some (c.wbuf.take 32) } { s with casc := c })

theorem exec_effect (i : Instr) (s : State) : ∃ t, exec i s = .next t ∧ CommandEffect s t := by
  cases i with
  | nop => exact ⟨_, rfl, .nothing⟩
  | xevan =>
    simp only [exec, execXevan]
    split
    · exact ⟨_, rfl, .error .range (by decide)⟩
    · split
      · exact ⟨_, rfl, .error .precond (by decide)⟩
      · split
        · exact ⟨_, rfl, .error .internal (by decide)⟩
        · rename_i c hc
          exact ⟨_, rfl, .cascade c hc⟩
  | einit eng =>
    simp only [exec, execEinit]
    split
    · exact ⟨_, rfl, .error .badEng (by decide)⟩
    · rename_i e _
      exact ⟨_, rfl, .message e [] (by simp)⟩
  | eabsorb eng off len =>
    simp only [exec, execEabsorb]
    split
    · exact ⟨_, rfl, .error .badEng (by decide)⟩
    · rename_i e _
      split
      · exact ⟨_, rfl, .error .range (by decide)⟩
      · split
        · exact ⟨_, rfl, .error .range (by decide)⟩
        · rename_i hm
          exact ⟨_, rfl, .message e _ (by simpa [msgFits, State.dbuf] using hm)⟩
  | efinal eng off =>
    simp only [exec, execEfinal]
    split
    · exact ⟨_, rfl, .error .badEng (by decide)⟩
    · rename_i e _
      split
      · exact ⟨_, rfl, .error .range (by decide)⟩
      · rename_i hd
        exact ⟨_, rfl, .digest off.toNat e (by simpa [dbufFits] using hd)⟩

/-- Everything a step can do (R131, R346): the core's step, the next access of the outside world, or nothing. -/
theorem step_cases (s : State) :
    (coreTurn s = true ∧ step s = coreStep s) ∨
    (coreTurn s = false ∧ ∃ ev rest, s.inbox = ev :: rest ∧ step s = hostStep ev (takeEvent rest s)) ∨
    (coreTurn s = false ∧ s.inbox = [] ∧ step s = .next s) := by
  unfold step
  cases hc : coreTurn s
  · simp only [Bool.false_eq_true, if_false, true_and]
    right
    cases hi : s.inbox with
    | nil => right; simp
    | cons ev rest => left; exact ⟨ev, rest, rfl, rfl⟩
  · left; simp

end Sys2Proof.Machine
end

