-- ==== Sys2Proof/Tests/Slice0.lean ====
section
/-!
SUPPORT. Tests/Slice0.lean: small tests, each with the source of what it expects, and for every obligation with
hypotheses a named witness that meets them, clause by clause.
-/

namespace Sys2Proof.Tests

open Sys2Proof.Machine

/-! ## WellFormed: terms that are no commands (R104) -/

theorem test_wf_einit_17 : (Instr.einit 17).wellFormed = false := by decide
theorem test_wf_eabsorb_31 : (Instr.eabsorb 31 0 0).wellFormed = false := by decide
theorem test_wf_efinal_17 : (Instr.efinal 17 64).wellFormed = false := by decide
theorem test_wf_last_engine : (Instr.einit 16).wellFormed = true ∧ (Instr.eabsorb 16 255 255).wellFormed = true := by
  decide

/-! ## Decode: words put together from the fields of R100 and the table of R102, LEN ++ OFF ++ RSV ++ ENG ++ OPC -/

theorem test_decode_nop : decode (0x00#8 ++ 0x00#8 ++ 0b000#3 ++ 0b00000#5 ++ 0x00#8) = .instr .nop := by decide
theorem test_decode_xevan : decode (0x00#8 ++ 0x00#8 ++ 0b000#3 ++ 0b00000#5 ++ 0x01#8) = .instr .xevan := by decide
theorem test_decode_einit : decode (0x00#8 ++ 0x00#8 ++ 0b000#3 ++ 0b01101#5 ++ 0x10#8) = .instr (.einit 13) := by
  decide
theorem test_decode_eabsorb :
    decode (0x03#8 ++ 0x7D#8 ++ 0b000#3 ++ 0b01111#5 ++ 0x11#8) = .instr (.eabsorb 15 125 3) := by decide
theorem test_decode_efinal :
    decode (0x00#8 ++ 0x40#8 ++ 0b000#3 ++ 0b10000#5 ++ 0x12#8) = .instr (.efinal 16 64) := by decide
theorem test_decode_rsv : decode (0x00#8 ++ 0x00#8 ++ 0b100#3 ++ 0b00000#5 ++ 0x11#8) = .error .illegal := by decide
theorem test_decodeTableWord : decodeTableWord 32 0x03000F11 = some (.eabsorb 15 0 3) ∧ decodeTableWord 32 2 = none := by
  decide

/-! ## Commands, one step each -/

/-- The bytes 61 62 63 at DBUF[0:3). -/
def abcInDbuf : State := { State.reset with mem := [(0x200, 0x61), (0x201, 0x62), (0x202, 0x63)] }

/-- The message "abc" in engine 15. -/
def abcInSha : State := State.reset.setMsg .sha512 [0x61, 0x62, 0x63]

/-- What a read returns after a step, or 0 where the step stops. -/
def readAfter (o : Host.Outcome State Fault Refusal) (off : Nat) : Word :=
  match o with
  | .next t => memRead t off
  | _ => 0#32

/-- S[e] after a step. -/
def msgAfter (o : Host.Outcome State Fault Refusal) (e : Engine) : Bytes :=
  match o with
  | .next t => t.msg e
  | _ => []

/-- R139: with IRQ_EN = 1 the word 0 leads to STATUS = 0x00000002. -/
theorem test_nop_status :
    readAfter (step ({ State.reset with irqEn := true }.withFetchWord 32 0)) 0x008 = 0x00000002#32 := by decide

/-- R306: XEVAN with INLEN = 200 and VARIANT = 4 is RANGE (3), with DONE. -/
theorem test_xevan_range :
    readAfter (step ({ State.reset with inlen := 200, variant := 4 }.withFetchWord 32 1)) 0x008 = 0x00000032#32 := by
  decide

/-- R284: XEVAN with INLEN = 111 and VARIANT = 4 is PRECOND (4). -/
theorem test_xevan_precond :
    readAfter (step ({ State.reset with inlen := 111, variant := 4 }.withFetchWord 32 1)) 0x008 = 0x00000042#32 := by
  decide

/-- R140: EINIT 15 empties S[15]. -/
theorem test_einit : msgAfter (step (abcInSha.withFetchWord 32 0x00000F10)) .sha512 = [] := by decide

/-- R302: EINIT 17 is BADENG (2). -/
theorem test_einit_badEng : readAfter (step (State.reset.withFetchWord 32 0x00001110)) 0x008 = 0x00000022#32 := by decide

/-- R141: EABSORB 15, 0, 3 with "abc" in DBUF. -/
theorem test_eabsorb :
    msgAfter (step (abcInDbuf.withFetchWord 32 0x03000F11)) .sha512 = [0x61, 0x62, 0x63] := by decide

/-- R141: EABSORB 15, 129, 0 is RANGE (3). -/
theorem test_eabsorb_range : readAfter (step (State.reset.withFetchWord 32 0x00810F11)) 0x008 = 0x00000032#32 := by
  decide

/-- V-EF2 of 95_test_vectors.md: after EFINAL 15, 0 of "abc" the word at 0x200 reads 0xa135afdd, at 0x23C 0x9fa44ca5. -/
theorem test_efinal :
    readAfter (step (abcInSha.withFetchWord 32 0x00000F12)) 0x200 = 0xa135afdd#32 ∧
    readAfter (step (abcInSha.withFetchWord 32 0x00000F12)) 0x23C = 0x9fa44ca5#32 := by decide +kernel

/-- V-EF6: EFINAL 16, 97 is RANGE (3). -/
theorem test_efinal_range : readAfter (step (State.reset.withFetchWord 32 0x00611012)) 0x008 = 0x00000032#32 := by
  decide

/-! ## Engines: the first eight bytes of the digest of "abc" (spec/95_test_vectors.md section 3) -/

/-- The first eight bytes of H_e("abc"). -/
def abcDigest (e : Engine) : Bytes := (e.hash [0x61, 0x62, 0x63]).take 8

theorem test_blake_abc : abcDigest .blake = [0x14, 0x26, 0x6c, 0x7c, 0x70, 0x4a, 0x3b, 0x58] := by decide +kernel
theorem test_bmw_abc : abcDigest .bmw = [0x8f, 0x37, 0xbe, 0xf2, 0x64, 0x28, 0x9f, 0x61] := by decide +kernel
theorem test_skein_abc : abcDigest .skein = [0x8f, 0x5d, 0xd9, 0xec, 0x79, 0x81, 0x52, 0x66] := by decide +kernel
theorem test_keccak_abc : abcDigest .keccak = [0x18, 0x58, 0x7d, 0xc2, 0xea, 0x10, 0x6b, 0x9a] := by decide +kernel
theorem test_shabal_abc : abcDigest .shabal = [0x4a, 0x7f, 0x0f, 0x70, 0x7c, 0x1b, 0x0c, 0x1d] := by decide +kernel
theorem test_whirlpool_abc : abcDigest .whirlpool = [0x4e, 0x24, 0x48, 0xa4, 0xc6, 0xf4, 0x86, 0xbb] := by decide +kernel
theorem test_sha512_abc : abcDigest .sha512 = [0xdd, 0xaf, 0x35, 0xa1, 0x93, 0x61, 0x7a, 0xba] := by decide +kernel
theorem test_haval_abc : abcDigest .haval = [0x97, 0x6c, 0xd6, 0x25, 0x4c, 0x33, 0x79, 0x69] := by decide +kernel

/-! ## Bus and reset -/

/-- R75: INBUF[0..3] = 01 02 03 04 reads as 0x04030201. -/
theorem test_lanes :
    memRead { State.reset with mem := [(0x100, 0x01), (0x101, 0x02), (0x102, 0x03), (0x103, 0x04)] } 0x100 =
      0x04030201#32 := by decide

/-- R32: a write of 3 to CTRL resets the block, and IRQ_EN = 0 after it. -/
theorem test_soft_reset : (memWrite 0x004 3 { State.reset with busy := true, irqEn := true }).irqEn = false := by decide

/-- R33, R339: a dropped write sets STATUS bit 2, and a write of 4 to STATUS clears it. -/
theorem test_drop :
    memRead (memWrite 0x010 5 { State.reset with busy := true }) 0x008 = 0x00000005#32 ∧
    memRead (memWrite 0x008 4 { State.reset with drop := true }) 0x008 = 0#32 := by decide

/-- The canonical form: a written 0x00 removes its cell, and cells stand in rising order of offset. -/
theorem test_memory_canonical : Memory.write [(0x200, 0x61)] 0x200 0x00 = [] ∧
    Memory.write [(0x200, 0x61)] 0x100 0x01 = [(0x100, 0x01), (0x200, 0x61)] := by decide

/-! ## Witnesses: hypotheses that are met -/

/-- A running command word, its latency over, with an access still to come. -/
def running (c : Word) : State := { State.reset with busy := true, seqCur := c, inbox := [.reset] }

/-- Engine functions of the right widths. -/
def zeroEngines : EngineSet := fun e _ => zeros e.digestLen

theorem test_zeroEngines : EngineWidths zeroEngines := fun _ _ => zeros_length _

theorem test_witness_FieldsAreTheBitsOfTheFormat : fieldRsv 0x80000111#32 = 0#3 := by decide

theorem test_witness_DecodeOfEncodeIsTheCommand :
    Instr.nop.wellFormed = true ∧ Instr.xevan.wellFormed = true ∧ (Instr.einit 16).wellFormed = true ∧
    (Instr.eabsorb 0 255 255).wellFormed = true ∧ (Instr.efinal 16 255).wellFormed = true := by decide

theorem test_witness_EncodeOfDecodeIsTheWord : decode 0x80000111#32 = .instr (.eabsorb 1 0 128) := by decide

theorem test_witness_AtMostOneRowMatches :
    (⟨.efinal, 0x00000012, 0xFF00E0FF⟩ : OpcodeRow) ∈ opcodeMap ∧
    (0x00400F12#32 &&& 0xFF00E0FF#32) = 0x00000012#32 := by decide

theorem test_witness_ReservedEncodingsAreIllegal : decode (running 0x00000002#32).seqCur = .error .illegal := by decide

theorem test_witness_EngineNumbersAbove16AreBadEng : decode (running 0x00001110#32).seqCur = .error .badEng := by decide

theorem test_witness_StepRunsTheDecodedCommand :
    (running 0x00000F10#32).busy = true ∧ (running 0x00000F10#32).latLeft = 0 ∧
    decode (running 0x00000F10#32).seqCur = .instr (.einit 15) ∧ decode (running 0x00002010#32).seqCur = .error .illegal ∧
    decode (running 0x00001F11#32).seqCur = .error .badEng := by decide

theorem test_witness_StepRunsTheDecodedCommand_waiting :
    ({ running 0#32 with latLeft := 7, inbox := [] } : State).busy = true ∧
    ({ running 0#32 with latLeft := 7, inbox := [] } : State).inbox = [] := by decide

theorem test_witness_StepServesTheNextAccess :
    ({ State.reset with inbox := [.reset] } : State).inbox = .reset :: [] ∧
    ({ State.reset with inbox := [.reset] } : State).busy = false ∧
    ({ running 0#32 with latLeft := 1 } : State).inbox = .reset :: [] ∧
    ({ running 0#32 with latLeft := 1 } : State).latLeft ≠ 0 ∧ State.reset.inbox = [] ∧ State.reset.busy = false := by
  decide

theorem test_witness_StepServesTheNextAccess_outside : Config.base + 0x400 ≤ Config.base + 0x400 := Nat.le_refl _

theorem test_witness_RunningCommandReachesItsCoreStep : ({ running 1#32 with latLeft := 3 } : State).busy = true := by
  decide

theorem test_witness_FetchWordRunsNext : decode (BitVec.ofNat 32 (0x00400F12 % 2 ^ 32)) = .instr (.efinal 15 64) := by
  decide

theorem test_witness_ResultsDoNotDependOnTiming : exec .nop State.reset = .next State.reset.okState :=
  rfl

theorem test_witness_LatencyDoesNotDependOnData :
    State.reset.busy = false ∧ State.reset.fatal = false ∧ abcInDbuf.busy = false ∧ abcInDbuf.fatal = false ∧
    abcInDbuf.draws = State.reset.draws ∧ abcInDbuf.variant = State.reset.variant ∧
    abcInDbuf.inlen = State.reset.inlen ∧ abcInDbuf.msgs = State.reset.msgs ∧ abcInDbuf.mem ≠ State.reset.mem := by decide

theorem test_witness_NopOnlyCompletes :
    fieldOpc 0x00000100#32 = 0x00#8 ∧ 0x00000100#32 ≠ 0x00000000#32 ∧
    ({ State.reset with irqEn := true } : State).irqEn = true ∧
    ({ State.reset with irqEn := true } : State).drop = false ∧
    ({ State.reset with irqEn := true } : State).fatal = false := by decide

theorem test_witness_EinitEmptiesTheMessage :
    fieldOpc 0x00002010#32 = 0x10#8 ∧ fieldRsv 0x00002010#32 ≠ 0#3 ∧
    fieldOpc 0x00001110#32 = 0x10#8 ∧ fieldRsv 0x00001110#32 = 0#3 ∧ fieldOff 0x00001110#32 = 0#8 ∧
    fieldLen 0x00001110#32 = 0#8 ∧ (fieldEng 0x00001110#32).toNat = 17 ∧ (fieldEng 0x00001010#32).toNat = 16 ∧
    Engine.haval ≠ Engine.blake ∧ 16 < (17#5).toNat := by decide

theorem test_witness_EabsorbAppendsDataBufferBytes :
    fieldOpc 0x00002011#32 = 0x11#8 ∧ fieldRsv 0x00002011#32 ≠ 0#3 ∧ (fieldEng 0x00001F11#32).toNat = 31 ∧
    (fieldEng 0x80000111#32).toNat = 1 ∧
    (128#8).toNat + (0#8).toNat ≤ 128 ∧ (0#8).toNat + (128#8).toNat ≤ 128 ∧ 128 < (129#8).toNat + (0#8).toNat ∧
    128 < (1#8).toNat + (128#8).toNat ∧ (abcInDbuf.msg .sha512).length + (128#8).toNat ≤ 2 ^ 61 - 1 ∧
    (64#8).toNat + (32#8).toNat + (32#8).toNat ≤ 128 ∧ 16 < (31#5).toNat := by decide

/-- A message of MAXMSG bytes (R46). -/
def fullMessage : State := State.reset.setMsg .blake (List.replicate (2 ^ 61 - 1) 0#8)

theorem test_witness_EabsorbAppendsDataBufferBytes_full :
    (fullMessage.msg .blake).length + (0#8).toNat ≤ 2 ^ 61 - 1 ∧
    2 ^ 61 - 1 < (fullMessage.msg .blake).length + (1#8).toNat := by
  rw [fullMessage, setMsg_msg_same, List.length_replicate]
  decide

theorem test_witness_EfinalWritesTheDigest :
    fieldOpc 0x01000012#32 = 0x12#8 ∧ fieldLen 0x01000012#32 ≠ 0#8 ∧ (fieldEng 0x00001F12#32).toNat = 31 ∧
    (fieldEng 0x00400F12#32).toNat = 15 ∧ (64#8).toNat + Engine.digestLen .blake ≤ 128 ∧
    (96#8).toNat + Engine.digestLen .haval ≤ 128 ∧ 128 < (65#8).toNat + Engine.digestLen .sha512 ∧
    128 < (97#8).toNat + Engine.digestLen .haval ∧ abcInSha.msg .sha512 = [0x61#8, 0x62#8, 0x63#8] := by decide

theorem test_witness_EnginesAreIndependent :
    (abcInSha.setMsg .blake [0x01#8]).msg .sha512 = abcInSha.msg .sha512 ∧
    (abcInSha.setMsg .blake [0x01#8]).msg .blake ≠ abcInSha.msg .blake ∧
    (∀ off len, off + len ≤ 128 → (abcInSha.setMsg .blake [0x01#8]).dbuf off len = abcInSha.dbuf off len) :=
  ⟨by decide, by decide, fun _ _ _ => rfl⟩

theorem test_witness_XevanWritesTheCascadeDigest :
    inputLen 0#32 ≤ (80#8).toNat ∧ (80#8).toNat ≤ 112 ∧ inputLen 5#32 ≤ (112#8).toNat ∧
    inputLen 4#32 ≤ (112#8).toNat ∧ (112#8).toNat ≤ 112 := by decide

theorem test_witness_SequencerComputesTheCascadeFunction : EngineWidths zeroEngines ∧ (zeros 80).length = 80 :=
  ⟨test_zeroEngines, zeros_length 80⟩

theorem test_witness_VariantSelectsTheInputLength : 4#32 = 4#32 ∧ 0xFFFFFFFF#32 ≠ 4#32 ∧ 0x00000104#32 ≠ 4#32 := by
  decide

theorem test_witness_XevanChecksItsInputLength :
    112 < (113#8).toNat ∧ (79#8).toNat ≤ 112 ∧ (79#8).toNat < inputLen 0#32 ∧ (111#8).toNat < inputLen 4#32 := by decide

theorem test_witness_XevanTouchesNeitherMessagesNorDbuf :
    0x2FC % 4 = 0 ∧ 0x2FC < 0x400 ∧ 0x2FC ≠ 0x008 ∧ ¬ (0x300 ≤ 0x2FC ∧ 0x2FC < 0x320) ∧
    abcInDbuf.variant = State.reset.variant ∧ abcInDbuf.inlen = State.reset.inlen ∧
    abcInDbuf.inbuf 112 = State.reset.inbuf 112 ∧ abcInDbuf.digest = State.reset.digest ∧
    abcInDbuf.dbuf 0 128 ≠ State.reset.dbuf 0 128 := by decide

theorem test_witness_UpperHalfIsZeroAtEveryAbsorb :
    EngineWidths zeroEngines ∧ (zeros 112).length = 112 ∧ 1 ≤ 17 ∧ 17 ≤ 17 :=
  ⟨test_zeroEngines, zeros_length 112, by decide, by decide⟩

theorem test_witness_BufferReadingsGiveTheSameDigest : EngineWidths zeroEngines := test_zeroEngines

theorem test_witness_InputBytesThatDoNotMatter :
    ({ State.reset with variant := 1, inlen := 80 } : State).variant ≠ 4#32 ∧
    ({ State.reset with variant := 5, inlen := 112, mem := [(0x150, 0xFF)] } : State).variant ≠ 4#32 ∧
    (80#8).toNat = 80 ∧ (112#8).toNat = 112 ∧
    ({ State.reset with variant := 5, inlen := 112, mem := [(0x150, 0xFF)] } : State).inbuf 80 =
      ({ State.reset with variant := 1, inlen := 80 } : State).inbuf 80 ∧
    ({ State.reset with variant := 4, inlen := 112, irqEn := true } : State).inbuf 112 =
      ({ State.reset with variant := 4, inlen := 112 } : State).inbuf 112 := by decide

theorem test_witness_ErrorsAreAtomic :
    exec (.einit 17) State.reset = .next (State.reset.errorState .badEng) ∧
    coreStep (running 2#32) = .next ((running 2#32).errorState .illegal) ∧
    (State.reset.errorState .badEng).err ≠ .ok :=
  ⟨rfl, rfl, by decide⟩

theorem test_witness_RangeIsRaisedInTheseCasesOnly :
    (Instr.efinal 31 200).wellFormed = false ∧ decode (running 0xFFFF1F11#32).seqCur = .error .badEng := by decide

theorem test_witness_ErrorPrecedenceExamples :
    (running 0x00001F12#32).seqCur = 0x00001F12#32 ∧ (running 0xFFFF1F11#32).seqCur = 0xFFFF1F11#32 ∧
    (running 0x01001F12#32).seqCur = 0x01001F12#32 ∧
    ({ running 0x00000001#32 with inlen := 200, variant := 4 } : State).seqCur = 0x00000001#32 := by decide

theorem test_witness_InterruptIsIrqEnAndDone :
    (2#32)[1] = true ∧ State.reset.busy = false ∧ State.reset.fatal = false ∧ (0#32)[0] = false ∧ (0#32)[1] = false := by
  decide

theorem test_witness_ReadsReturnTheRegisterMap :
    0x16C % 4 = 0 ∧ (0x100 ≤ 0x16C ∧ 0x16C < 0x170) ∧ 0x27C % 4 = 0 ∧ (0x200 ≤ 0x27C ∧ 0x27C < 0x280) ∧
    0x31C % 4 = 0 ∧ (0x300 ≤ 0x31C ∧ 0x31C < 0x320) ∧ (0x320 ≤ 0x3FC ∧ 0x3FC < 0x400) ∧
    (0x3FC#10).toNat % 4 = 0 := by decide

theorem test_witness_ByteLanesAreLittleEndian :
    27 < 112 / 4 ∧ 31 < 128 / 4 ∧ 7 < 32 / 4 ∧ 111 < 112 ∧ 127 < 128 ∧ 31 < 32 ∧
    ({ State.reset with mem := [(0x100, 0x01), (0x101, 0x02), (0x102, 0x03), (0x103, 0x04)] } : State).inbuf 4 =
      [0x01#8, 0x02#8, 0x03#8, 0x04#8] := by decide

theorem test_witness_OtherAccessesGetABusError :
    Width.bits8 ≠ .bits32 ∧ Width.bits16 ≠ .bits32 ∧ Width.bits64 ≠ .bits32 ∧ (0x202#10).toNat % 4 ≠ 0 := by decide

theorem test_witness_WritesReplaceTheTarget :
    State.reset.busy = false ∧ 0x27C % 4 = 0 ∧ (0x200 ≤ 0x27C ∧ 0x27C < 0x280) ∧ ¬ (0x27C ≤ 0x280 ∧ 0x280 < 0x27C + 4) ∧
    (0x280 ≤ 0x31C ∧ 0x31C < 0x400) ∧ (0x27C#10).toNat % 4 = 0 := by decide

theorem test_witness_BusyAndFaultProtection :
    (running 1#32).busy = true ∧ 0x16C % 4 = 0 ∧ (0x100 ≤ 0x16C ∧ 0x16C < 0x170) ∧
    ({ State.reset with fatal := true, err := .internal } : State).fatal = true ∧ (1#32)[1] = false ∧ (3#32)[1] = true := by
  decide

theorem test_witness_IssueOfACommand :
    (running 1#32).busy = true ∧ ({ State.reset with fatal := true } : State).fatal = true ∧ State.reset.busy = false ∧
    State.reset.fatal = false := by decide

theorem test_witness_NoStaleDone :
    0x00C#10 = 0x00C#10 ∧ ({ State.reset with done := true } : State).busy = false ∧
    ({ State.reset with done := true } : State).fatal = false := by decide

theorem test_witness_RunningCommandsInputsAreFrozen : (running 1#32).busy = true := by decide

theorem test_witness_SoftResetRestoresTheResetState : (2#32)[1] = true ∧ (3#32)[1] = true ∧ (1#32)[1] = false := by decide

theorem test_witness_EveryStepKeepsTheInvariant :
    State.reset.Inv ∧ step { State.reset with inbox := [.reset] } = .next State.reset :=
  ⟨⟨⟨by simp, by simp⟩, ⟨rfl, rfl⟩, fun e => by simp, ⟨by simp, rfl⟩⟩, rfl⟩

theorem test_witness_StatusValueInvariants :
    ((running 0#32).busy = true ∧ (running 0#32).done = false ∧ (running 0#32).fatal = false) ∧
    step (running 0#32) = .next (running 0#32).okState :=
  ⟨by decide, rfl⟩

theorem test_witness_FatalIsNeverReached :
    (running 0#32).fatal = false ∧ step (running 0#32) = .next (running 0#32).okState :=
  ⟨rfl, rfl⟩

theorem test_witness_FatalIsStuckUntilReset :
    ({ State.reset with fatal := true, err := .internal } : State).fatal = true ∧
    ({ State.reset with fatal := true, err := .internal } : State).busy = false ∧
    step { State.reset with fatal := true, err := .internal } =
      .next { State.reset with fatal := true, err := .internal } ∧
    step { State.reset with fatal := true, err := .internal, inbox := [.reset] } = .next State.reset ∧
    HostEvent.reset.IsReset ∧ (HostEvent.access (Config.base + 0x004) .bits32 (.write 2#64)).IsReset ∧
    step { State.reset with
      fatal := true, err := .internal, inbox := [.access (Config.base + 0x004) .bits32 (.write 2#64)] } =
      .next { State.reset with resp := some .written } := by
  refine ⟨rfl, rfl, rfl, rfl, Or.inl rfl, Or.inr ⟨2#64, by decide, rfl⟩, ?_⟩
  change hostStep (.access (Config.base + (0x004#10).toNat) .bits32 (.write 2#64)) _ = _
  simp only [hostStep, blockOffset?_base]
  rfl

theorem test_witness_DigestsHaveTheirWidth : Engine.blake ≠ .haval := by decide

theorem test_witness_PaddingFillsWholeBlocks :
    (keccakPad (zeros 71), 72) ∈ [(keccakPad (zeros 71), 72)] ∧ (keccakPad (zeros 71)).length = 72 := by decide

theorem test_witness_SboxesFollowTheirConstruction : 0x01#8 ≠ 0#8 := by decide

theorem test_witness_ConstantsFollowTheirConstruction : 40 < 41 ∧ 79 < 80 ∧ 7 < 8 ∧ 1 < 8 := by decide

end Sys2Proof.Tests
end

section
/-!
SUPPORT. What a host access to each register reads and writes, at the offsets of the register map (R70), and what the
empty memory holds.
-/

namespace Sys2Proof.Machine

@[simp] theorem memRead_id (s : State) : memRead s 0x000 = Config.idValue := rfl
@[simp] theorem memRead_ctrl (s : State) : memRead s 0x004 = s.ctrlWord := rfl
@[simp] theorem memRead_status (s : State) : memRead s 0x008 = s.statusWord := rfl
@[simp] theorem memRead_cmd (s : State) : memRead s 0x00C = 0#32 := rfl
@[simp] theorem memRead_variant (s : State) : memRead s 0x010 = s.variant := rfl
@[simp] theorem memRead_inlen (s : State) : memRead s 0x014 = s.inlen.setWidth 32 := rfl

@[simp] theorem memWrite_id (v : Word) (s : State) : memWrite 0x000 v s = s := rfl
@[simp] theorem memWrite_ctrl (v : Word) (s : State) : memWrite 0x004 v s = writeCtrl v s := rfl
@[simp] theorem memWrite_status (v : Word) (s : State) : memWrite 0x008 v s = s.ackFlags v := rfl
@[simp] theorem memWrite_cmd (v : Word) (s : State) : memWrite 0x00C v s = issue v s := rfl

/-- A memory that lists no byte reads as zeros everywhere (R53). -/
@[simp] theorem readBytes_nil (a n : Nat) : Memory.readBytes [] a n = zeros n := by
  simp [Memory.readBytes, tab, Memory.read, zeros]

end Sys2Proof.Machine
end

section
/-!
SUPPORT. The STATUS word (R33) and its field ERR.
-/

namespace Sys2Proof.Machine

/-- ERR = 15 is the code of INTERNAL alone (R300). -/
theorem code_eq_fifteen_iff (c : ResultCode) : c.code = 15#4 ↔ c = .internal := by
  cases c <;> decide

/-- The result codes (R300): the values 5 to 14 are reserved (R34). -/
theorem code_mem (c : ResultCode) : c.code ∈ [0#4, 1#4, 2#4, 3#4, 4#4, 15#4] := by
  cases c <;> decide

/-- The four flags stand below the field ERR (R33). -/
theorem flagBit_err (b : Bool) {n : Nat} (h : n < 4) : (flagBit b n).extractLsb' 4 4 = 0#4 := by
  cases b <;> interval_cases n <;> decide

/-- Bits 7:4 of STATUS are ERR (R33). -/
theorem statusWord_err (s : State) : s.statusWord.extractLsb' 4 4 = s.err.code := by
  have herr : (s.err.code.setWidth 32 <<< 4).extractLsb' 4 4 = s.err.code := by
    cases s.err <;> rfl
  simp only [State.statusWord, BitVec.extractLsb'_or, herr, flagBit_err, Nat.reduceLT, BitVec.zero_or]

end Sys2Proof.Machine
end

section
/-!
SUPPORT. What every completion does to CTRL and STATUS (R133), for each command and for the core step.
-/

namespace Sys2Proof.Machine

/-- The registers CTRL and STATUS of t are those of s after a completion with `code` (R133). -/
structure CompletesWith (s : State) (code : ResultCode) (t : State) : Prop where
  irqEn : t.irqEn = s.irqEn
  busy : t.busy = false
  done : t.done = true
  drop : t.drop = s.drop
  fatal : t.fatal = (s.fatal || code == .internal)
  err : t.err = code

/-- The interrupt follows IRQ_EN right after a completion (R42). -/
theorem CompletesWith.irq {s t : State} {code : ResultCode} (h : CompletesWith s code t) : t.irq = s.irqEn := by
  simp [State.irq, h.irqEn, h.done]

/-- Committing staged results reaches no flag (R133). -/
theorem commit_flags (s : State) :
    s.commit.irqEn = s.irqEn ∧ s.commit.drop = s.drop ∧ s.commit.fatal = s.fatal := by
  unfold State.commit
  rcases s.seqRes with ⟨_ | _, _ | _, _ | _⟩ <;> exact ⟨rfl, rfl, rfl⟩

theorem complete_completesWith (code : ResultCode) (s : State) : CompletesWith s code (complete code s) := by
  obtain ⟨hirq, hdrop, hfatal⟩ := commit_flags s
  unfold complete
  split
  · exact ⟨hirq, rfl, rfl, hdrop, congrArg (· || code == .internal) hfatal, rfl⟩
  · exact ⟨rfl, rfl, rfl, rfl, rfl, rfl⟩

theorem finish_completesWith (r : Staged) (s : State) : CompletesWith s .ok (finish r s) :=
  have ⟨hirq, hbusy, hdone, hdrop, hfatal, herr⟩ := complete_completesWith .ok { s with seqRes := r }
  ⟨hirq, hbusy, hdone, hdrop, hfatal, herr⟩

/-- Whatever a command does, it completes with some code (R133). -/
theorem CommandEffect.completesWith {s t : State} (h : CommandEffect s t) : ∃ code, CompletesWith s code t := by
  cases h with
  | error code _ => exact ⟨code, complete_completesWith code s⟩
  | nothing => exact ⟨.ok, finish_completesWith _ s⟩
  | message e m _ => exact ⟨.ok, finish_completesWith _ s⟩
  | digest off e _ => exact ⟨.ok, finish_completesWith _ s⟩
  | cascade c _ =>
    have ⟨hirq, hbusy, hdone, hdrop, hfatal, herr⟩ :=
      finish_completesWith { digest := some (c.wbuf.take 32) } { s with casc := c }
    exact ⟨.ok, hirq, hbusy, hdone, hdrop, hfatal, herr⟩

theorem exec_completesWith (i : Instr) (s : State) :
    ∃ code t, exec i s = .next t ∧ CompletesWith s code t := by
  obtain ⟨t, ht, heff⟩ := exec_effect i s
  obtain ⟨code, hc⟩ := heff.completesWith
  exact ⟨code, t, ht, hc⟩

/-- The core step completes with some code, whether or not its word decodes (R105, R133). -/
theorem coreStep_completesWith (s : State) : ∃ code t, coreStep s = .next t ∧ CompletesWith s code t := by
  unfold coreStep
  cases fetch s with
  | error e => exact ⟨_, _, rfl, complete_completesWith (decodeErrorCode e) s⟩
  | instr i => exact exec_completesWith i s

end Sys2Proof.Machine
end

section
/-!
SUPPORT. The value invariants of STATUS (R34), kept by every step.
-/

namespace Sys2Proof.Machine

/-- R34 as STATUS shows it: ERR by its number in place of the code's name. -/
theorem statusOk_iff (s : State) :
    s.StatusOk ↔ (s.busy = true → s.done = false) ∧ (s.fatal = true → s.busy = false ∧ s.err.code = 15#4) := by
  simp only [State.StatusOk, code_eq_fifteen_iff]

theorem statusOk_reset : State.reset.StatusOk := by simp [State.StatusOk]

/-- A completion keeps R34: it leaves the block idle, and INTERNAL alone sets FATAL, which no running block has. -/
theorem CompletesWith.statusOk {s t : State} {code : ResultCode} (h : CompletesWith s code t) (hb : s.busy = true)
    (hs : s.StatusOk) : t.StatusOk := by
  obtain ⟨-, hstuck⟩ := hs
  have hf : s.fatal = false := by
    by_contra hn
    obtain ⟨hidle, -⟩ := hstuck (by simpa using hn)
    simp [hb] at hidle
  refine ⟨fun ht => by simp [h.busy] at ht, fun ht => ⟨h.busy, ?_⟩⟩
  simpa [h.fatal, hf, h.err] using ht

/-- Every write keeps R34: the issue clears DONE, only an idle block without FATAL takes it, and no other write raises
BUSY, DONE or FATAL or touches ERR, but for a reset. -/
theorem WriteEffect.statusOk {off : Nat} {v : Word} {s t : State} (h : WriteEffect off v s t) (hs : s.StatusOk) :
    t.StatusOk := by
  cases h with
  | acknowledged => exact ⟨fun hb => by simp [hs.1 hb], hs.2⟩
  | issued hb hf =>
    rw [issue_accepted v hb hf]
    exact ⟨fun _ => rfl, fun ht => by simp [hf] at ht⟩
  | softReset _ _ => exact statusOk_reset
  | ignored => exact hs
  | irqEnable _ _ => exact hs
  | dropped => exact hs
  | variant _ => exact hs
  | inlen _ => exact hs
  | buffer _ _ => exact hs

theorem busAccess_statusOk (off : BitVec 10) (w : Width) (d : Dir) {s : State} (hs : s.StatusOk) :
    (busAccess off w d s).StatusOk := by
  obtain ⟨r, h⟩ | ⟨v, t, -, -, -, -, heff, h⟩ := busAccess_effect off w d s
  · rw [h]; exact hs
  · rw [h]; exact heff.statusOk hs

theorem hostStep_statusOk {ev : HostEvent} {s t : State} (hs : s.StatusOk) (h : hostStep ev s = .next t) :
    t.StatusOk := by
  cases ev with
  | reset => cases h; exact statusOk_reset
  | access addr w d =>
    simp only [hostStep] at h
    split at h <;> cases h
    exact busAccess_statusOk _ w d hs

theorem step_statusOk {s t : State} (hs : s.StatusOk) (h : step s = .next t) : t.StatusOk := by
  obtain ⟨hturn, hstep⟩ | ⟨-, ev, rest, -, hstep⟩ | ⟨-, -, hstep⟩ := step_cases s
  · have hb : s.busy = true := (Bool.and_eq_true_iff.mp hturn).1
    obtain ⟨code, u, hu, hc⟩ := coreStep_completesWith s
    rw [hstep, hu] at h
    cases h
    exact hc.statusOk hb hs
  · rw [hstep] at h
    exact hostStep_statusOk (s := takeEvent rest s) hs h
  · rw [hstep] at h
    cases h
    exact hs

end Sys2Proof.Machine
end

section
/-!
The statements of spec/10_state.md: the value invariants of STATUS, the interrupt, ID and the reset values.
-/

namespace Sys2Proof.Proofs

open Sys2Proof.Machine

/-- Settles O49: R34 is `State.StatusOk` read by ERR's number; it holds at reset and every step keeps it, and bits 7:4
of STATUS are the number of some result code. -/
theorem statusValueInvariants : Obligations.StatusValueInvariants := by
  refine ⟨(statusOk_iff _).mp statusOk_reset, fun s t hdone hfatal hstep => ?_, fun s => ?_⟩
  · exact (statusOk_iff t).mp (step_statusOk ((statusOk_iff s).mpr ⟨hdone, hfatal⟩) hstep)
  · rw [memRead_status, statusWord_err]
    exact code_mem s.err

/-- Settles O33: every completion raises DONE, and each way to lower the interrupt clears DONE or IRQ_EN. -/
theorem interruptIsIrqEnAndDone : Obligations.InterruptIsIrqEnAndDone := by
  refine ⟨fun _ => rfl, fun i s => ?completion, fun s v hv => ?acknowledged, fun s c hb hf => ?issued,
    fun s v h0 h1 => ?masked, fun s => ?reset⟩
  case completion =>
    obtain ⟨code, t, ht, hc⟩ := exec_completesWith i s
    exact ⟨t, ht, hc.irq⟩
  case acknowledged => simp [State.irq, hv]
  case issued => simp [State.irq, issue_accepted c hb hf]
  case masked => simp [State.irq, writeCtrl_plain s h1, h0]
  case reset => simp [State.irq]

/-- Settles O43: the register map answers a read of ID with the constant, and a write to ID only with its completion. -/
theorem idIsConstant : Obligations.IdIsConstant := by
  refine ⟨fun s => memRead_id s, fun s v => ?_, by decide, by decide, by decide⟩
  simpa using busAccess_write (off := 0x000#10) rfl v s

/-- Settles O44: the registers are read by the register map, and the buffers out of a memory that lists no byte. -/
theorem resetValues : Obligations.ResetValues := by
  refine ⟨memRead_id _, memRead_ctrl _, memRead_status _, memRead_variant _, memRead_inlen _, ?inbuf, ?dbuf, ?digest,
    rfl, reset_msg, reset_busy, reset_done, reset_drop, reset_fatal, reset_err⟩
  case inbuf => simp [State.inbuf]
  case dbuf => simp [State.dbuf]
  case digest => simp [State.digest, digestSize]

end Sys2Proof.Proofs
end

section
/-!
SUPPORT. Little-endian words by bits and by byte lanes (R11, R75).
-/

namespace Sys2Proof.Machine

/-- Bit j of a little-endian integer is bit j mod 8 of its byte j / 8 (R11). -/
theorem testBit_leNat (s : Bytes) (j : Nat) : (leNat s).testBit j = (nth s (j / 8)).getLsbD (j % 8) := by
  induction s generalizing j with
  | nil => simp [leNat, nth]
  | cons b bs ih =>
    have hcons : leNat (b :: bs) = 2 ^ 8 * leNat bs + b.toNat := by rw [leNat]; omega
    rw [hcons, Nat.testBit_two_pow_mul_add _ b.isLt]
    split
    next hj => simp [nth, Nat.div_eq_of_lt hj, Nat.mod_eq_of_lt hj, BitVec.testBit_toNat]
    next hj =>
      obtain ⟨k, rfl⟩ := Nat.exists_eq_add_of_le (Nat.le_of_not_lt hj)
      have hdiv : (8 + k) / 8 = k / 8 + 1 := by omega
      rw [Nat.add_sub_cancel_left, ih, hdiv, Nat.add_mod_left]
      simp [nth]

/-- Bit j of a little-endian word is bit j mod 8 of its byte j / 8 (R11). -/
theorem getLsbD_le32 (s : Bytes) {j : Nat} (h : j < 32) : (le32 s).getLsbD j = (nth s (j / 8)).getLsbD (j % 8) := by
  rw [le32, BitVec.getLsbD_ofNat, testBit_leNat]
  simp [h]

/-- Byte k of a string stands in byte lane k of its little-endian word (R75). -/
theorem le32_lane (s : Bytes) {k : Nat} (h : k < 4) : (le32 s).extractLsb' (8 * k) 8 = nth s k := by
  apply BitVec.eq_of_getLsbD_eq
  intro i hi
  have hdiv : (8 * k + i) / 8 = k := by omega
  have hmod : (8 * k + i) % 8 = i := by omega
  rw [BitVec.getLsbD_extractLsb', getLsbD_le32 s (by omega), hdiv, hmod]
  simp [hi]

/-- Byte k of a byte string read out of the memory. -/
theorem nth_readBytes (m : Memory) (a : Nat) {n k : Nat} (h : k < n) :
    nth (Memory.readBytes m a n) k = Memory.read m (a + k) := by
  simp [nth, Memory.readBytes, tab, h]

/-- The byte at a + k is byte lane k of the word at a (R75). -/
theorem bufferWord_lane (m : Memory) (a : Nat) {k : Nat} (h : k < 4) :
    (bufferWord m a).extractLsb' (8 * k) 8 = Memory.read m (a + k) := by
  rw [bufferWord, le32_lane _ h, nth_readBytes m a h]

/-- A word is its four byte lanes, each shifted to its place. -/
theorem word_lanes (c : Word) :
    c = (c.extractLsb' 0 8).setWidth 32 ||| ((c.extractLsb' 8 8).setWidth 32 <<< 8) |||
      ((c.extractLsb' 16 8).setWidth 32 <<< 16) ||| ((c.extractLsb' 24 8).setWidth 32 <<< 24) := by
  apply BitVec.eq_of_getLsbD_eq
  intro i hi
  interval_cases i <;> simp

/-- A buffer word is its four bytes, the first in bits 7:0 (R75). -/
theorem bufferWord_eq (m : Memory) (a : Nat) :
    bufferWord m a = (Memory.read m a).setWidth 32 ||| ((Memory.read m (a + 1)).setWidth 32 <<< 8) |||
      ((Memory.read m (a + 2)).setWidth 32 <<< 16) ||| ((Memory.read m (a + 3)).setWidth 32 <<< 24) := by
  have hlane := fun k => bufferWord_lane m a (k := k)
  rw [word_lanes (bufferWord m a), hlane 0 (by decide), hlane 1 (by decide), hlane 2 (by decide), hlane 3 (by decide),
    Nat.add_zero]

end Sys2Proof.Machine
end

section
/-!
SUPPORT. What a read returns in the buffers and at the reserved offsets (R70, R73), and which accesses the block takes.
-/

namespace Sys2Proof.Machine

/-- Where the buffers stand in the address map (R70). -/
theorem target_of_buffer {off : Nat} :
    ((0x100 ≤ off ∧ off < 0x170) → target off = .inbuf) ∧ ((0x200 ≤ off ∧ off < 0x280) → target off = .dbuf) ∧
    ((0x300 ≤ off ∧ off < 0x320) → target off = .digest) := by
  unfold target inbufBase inbufSize dbufBase dbufSize digestBase digestSize
  refine ⟨fun h => ?_, fun h => ?_, fun h => ?_⟩ <;> simp (disch := omega) only [if_neg, if_pos]

/-- Where the reserved offsets stand in the address map (R70). -/
theorem target_reserved {off : Nat}
    (h : (0x018 ≤ off ∧ off < 0x100) ∨ (0x170 ≤ off ∧ off < 0x200) ∨ (0x280 ≤ off ∧ off < 0x300) ∨
      (0x320 ≤ off ∧ off < 0x400)) : target off = .reserved := by
  unfold target inbufBase inbufSize dbufBase dbufSize digestBase digestSize
  simp (disch := omega) only [if_neg]

/-- A read in a buffer returns its word (R73). -/
theorem memRead_buffer (s : State) {off : Nat}
    (h : (0x100 ≤ off ∧ off < 0x170) ∨ (0x200 ≤ off ∧ off < 0x280) ∨ (0x300 ≤ off ∧ off < 0x320)) :
    memRead s off = bufferWord s.mem off := by
  obtain ⟨hinbuf, hdbuf, hdigest⟩ := target_of_buffer (off := off)
  rcases h with h | h | h
  · simp only [memRead, hinbuf h]
  · simp only [memRead, hdbuf h]
  · simp only [memRead, hdigest h]

/-- A read at a reserved offset returns zero (R73). -/
theorem memRead_reserved (s : State) {off : Nat}
    (h : (0x018 ≤ off ∧ off < 0x100) ∨ (0x170 ≤ off ∧ off < 0x200) ∨ (0x280 ≤ off ∧ off < 0x300) ∨
      (0x320 ≤ off ∧ off < 0x400)) : memRead s off = 0#32 := by
  simp only [memRead, target_reserved h]

/-- CTRL reads as its bit IRQ_EN (R32). -/
theorem ctrlWord_eq (s : State) : s.ctrlWord = if s.irqEn then 1#32 else 0#32 := rfl

/-- The block refuses an access of another width or alignment (R72, R77). -/
theorem accessOk_eq_false_iff (off : BitVec 10) (w : Width) :
    accessOk off w = false ↔ w ≠ .bits32 ∨ off.toNat % 4 ≠ 0 := by
  simp [accessOk, imp_iff_not_or]

end Sys2Proof.Machine
end

section
/-!
The statements of spec/20_memory.md: what a read returns, the byte lanes of the buffers, and the bus errors.
-/

namespace Sys2Proof.Proofs

open Sys2Proof.Machine

/-- Settles O34: each offset by its target in the address map, and a read of the bus that only answers. -/
theorem readsReturnTheRegisterMap : Obligations.ReadsReturnTheRegisterMap := by
  intro s
  refine ⟨memRead_id s, ctrlWord_eq s, memRead_status s, memRead_cmd s, memRead_variant s, memRead_inlen s,
    fun off _ hbuf => ?buffer, fun off hres => memRead_reserved s hres, fun off halign => busAccess_read halign s⟩
  case buffer => rw [memRead_buffer s hbuf, bufferWord_eq]

/-- Settles O36: every word of the three buffers is a `bufferWord`, whose lanes are its bytes; byte i stands in the
word of its quotient by 4, at the lane of its remainder. -/
theorem byteLanesAreLittleEndian : Obligations.ByteLanesAreLittleEndian := by
  refine ⟨fun s w n hwin => ⟨fun j hj => ?word, fun i hi => ?lane⟩, fun s hbytes => ?worked⟩
  case word => rw [memRead_buffer s (by omega), bufferWord_eq]
  case lane =>
    have hi4 : w + 4 * (i / 4) + i % 4 = w + i := by omega
    rw [memRead_buffer s (by omega), bufferWord_lane _ _ (Nat.mod_lt i (by decide)), hi4]
  case worked =>
    calc memRead s 0x100 = le32 (s.inbuf 4) := memRead_buffer s (by decide)
      _ = 0x04030201#32 := by rw [hbytes]; rfl

/-- Settles O37: an access of another width or alignment is one the block refuses. -/
theorem otherAccessesGetABusError : Obligations.OtherAccessesGetABusError :=
  fun s off w d h => busAccess_error ((accessOk_eq_false_iff off w).mpr h) d s

end Sys2Proof.Proofs
end

section
/-!
SUPPORT. The decoder opcode by opcode (R102, R103, R104), and the fields of a word as numbers (R101).
-/

namespace Sys2Proof

/-- A field of a word is the bits shifted down, cut to the field's width (R101). -/
theorem toNat_field (c : Word) (start width : Nat) :
    (c.extractLsb' start width).toNat = c.toNat / 2 ^ start % 2 ^ width := by
  rw [BitVec.extractLsb'_toNat, Nat.shiftRight_eq_div_pow]

/-- A word whose field RSV is 0 is the word built from its other four fields (R100). -/
theorem buildWord_of_fields {c : Word} (hrsv : fieldRsv c = 0#3) :
    buildWord (fieldOpc c) (fieldEng c) (fieldOff c) (fieldLen c) = c := by
  obtain ⟨hopc, heng, hzero, hoff, hlen⟩ := buildWord_fields (fieldOpc c) (fieldEng c) (fieldOff c) (fieldLen c)
  exact word_ext hopc heng (hzero.trans hrsv.symm) hoff hlen

/-- ENG names no engine exactly when it is 17 to 31 (R104). -/
theorem engOk_eq_false_iff (eng : BitVec 5) : engOk eng = false ↔ 17 ≤ eng.toNat := by
  simp [engOk, Nat.succ_le_iff]

/-- An opcode is one of the five of the opcode map, or reserved (R102, R103). -/
theorem opc_cases (opc : BitVec 8) :
    opc = 0x00#8 ∨ opc = 0x01#8 ∨ opc = 0x10#8 ∨ opc = 0x11#8 ∨ opc = 0x12#8 ∨
      (opc ≠ 0x00#8 ∧ opc ≠ 0x01#8 ∧ opc ≠ 0x10#8 ∧ opc ≠ 0x11#8 ∧ opc ≠ 0x12#8) := by
  tauto

section
variable {c : Word}

/-- The words with NOP's opcode (R102). -/
theorem decode_opc_nop (h : fieldOpc c = 0x00#8) :
    decode c = if fieldEng c = 0#5 ∧ fieldRsv c = 0#3 ∧ fieldOff c = 0#8 ∧ fieldLen c = 0#8 then .instr .nop
      else .error .illegal := by
  simp [decode_fields, h]

/-- The words with XEVAN's opcode (R102). -/
theorem decode_opc_xevan (h : fieldOpc c = 0x01#8) :
    decode c = if fieldEng c = 0#5 ∧ fieldRsv c = 0#3 ∧ fieldOff c = 0#8 ∧ fieldLen c = 0#8 then .instr .xevan
      else .error .illegal := by
  simp [decode_fields, h]

/-- The words with EINIT's opcode (R102, R104). -/
theorem decode_opc_einit (h : fieldOpc c = 0x10#8) :
    decode c = if fieldRsv c = 0#3 ∧ fieldOff c = 0#8 ∧ fieldLen c = 0#8 then
        if engOk (fieldEng c) then .instr (.einit (fieldEng c)) else .error .badEng
      else .error .illegal := by
  simp [decode_fields, h]

/-- The words with EABSORB's opcode (R102, R104). -/
theorem decode_opc_eabsorb (h : fieldOpc c = 0x11#8) :
    decode c = if fieldRsv c = 0#3 then
        if engOk (fieldEng c) then .instr (.eabsorb (fieldEng c) (fieldOff c) (fieldLen c)) else .error .badEng
      else .error .illegal := by
  simp [decode_fields, h]

/-- The words with EFINAL's opcode (R102, R104). -/
theorem decode_opc_efinal (h : fieldOpc c = 0x12#8) :
    decode c = if fieldRsv c = 0#3 ∧ fieldLen c = 0#8 then
        if engOk (fieldEng c) then .instr (.efinal (fieldEng c) (fieldOff c)) else .error .badEng
      else .error .illegal := by
  simp [decode_fields, h]

/-- The words with a reserved opcode (R103). -/
theorem decode_opc_reserved (h : fieldOpc c ≠ 0x00#8 ∧ fieldOpc c ≠ 0x01#8 ∧ fieldOpc c ≠ 0x10#8 ∧
    fieldOpc c ≠ 0x11#8 ∧ fieldOpc c ≠ 0x12#8) : decode c = .error .illegal := by
  obtain ⟨hnop, hxevan, heinit, heabsorb, hefinal⟩ := h
  simp [decode_fields, hnop, hxevan, heinit, heabsorb, hefinal]

/-- A command with no engine number is turned away by its zero fields alone (R103, R105). -/
theorem ite_instr_eq_illegal_iff {p : Prop} [Decidable p] {i : Instr} :
    (if p then Decoded.instr i else .error .illegal) = .error .illegal ↔ ¬ p := by
  split <;> simp [*]

/-- The check of an engine command's zero fields comes before the check of its engine number (R105). -/
theorem ite_engOk_eq_illegal_iff {p : Prop} [Decidable p] {b : Bool} {i : Instr} :
    (if p then if b then Decoded.instr i else .error .badEng else .error .illegal) = .error .illegal ↔ ¬ p := by
  split
  · cases b <;> simp [*]
  · simp [*]

/-- An engine command whose zero fields are right is turned away by its engine number alone (R104, R105). -/
theorem ite_engOk_eq_badEng_iff {p : Prop} [Decidable p] {b : Bool} {i : Instr} :
    (if p then if b then Decoded.instr i else .error .badEng else .error .illegal) = .error .badEng ↔ p ∧ b = false := by
  split
  · cases b <;> simp [*]
  · simp [*]

/-- The two kinds of ILLEGAL word: a reserved opcode, or a field that is not the 0 its opcode asks for (R103). -/
theorem decode_eq_illegal_iff (c : Word) : decode c = .error .illegal ↔
    (fieldOpc c ≠ 0x00#8 ∧ fieldOpc c ≠ 0x01#8 ∧ fieldOpc c ≠ 0x10#8 ∧ fieldOpc c ≠ 0x11#8 ∧ fieldOpc c ≠ 0x12#8) ∨
    ((fieldOpc c = 0x00#8 ∨ fieldOpc c = 0x01#8) ∧
      (fieldEng c ≠ 0#5 ∨ fieldRsv c ≠ 0#3 ∨ fieldOff c ≠ 0#8 ∨ fieldLen c ≠ 0#8)) ∨
    (fieldOpc c = 0x10#8 ∧ (fieldRsv c ≠ 0#3 ∨ fieldOff c ≠ 0#8 ∨ fieldLen c ≠ 0#8)) ∨
    (fieldOpc c = 0x11#8 ∧ fieldRsv c ≠ 0#3) ∨
    (fieldOpc c = 0x12#8 ∧ (fieldRsv c ≠ 0#3 ∨ fieldLen c ≠ 0#8)) := by
  rcases opc_cases (fieldOpc c) with h | h | h | h | h | h
  · rw [decode_opc_nop h, ite_instr_eq_illegal_iff]
    simp [h, -not_and, not_and_or]
  · rw [decode_opc_xevan h, ite_instr_eq_illegal_iff]
    simp [h, -not_and, not_and_or]
  · rw [decode_opc_einit h, ite_engOk_eq_illegal_iff]
    simp [h, -not_and, not_and_or]
  · rw [decode_opc_eabsorb h, ite_engOk_eq_illegal_iff]
    simp [h]
  · rw [decode_opc_efinal h, ite_engOk_eq_illegal_iff]
    simp [h, -not_and, not_and_or]
  · exact iff_of_true (decode_opc_reserved h) (.inl h)

/-- The words that decode to BADENG: not ILLEGAL, an engine command, and an ENG that names no engine (R104). -/
theorem decode_eq_badEng_iff (c : Word) : decode c = .error .badEng ↔
    decode c ≠ .error .illegal ∧ (fieldOpc c = 0x10#8 ∨ fieldOpc c = 0x11#8 ∨ fieldOpc c = 0x12#8) ∧
      engOk (fieldEng c) = false := by
  rcases opc_cases (fieldOpc c) with h | h | h | h | h | h
  · simp [decode_opc_nop h, h, ite_eq_iff]
  · simp [decode_opc_xevan h, h, ite_eq_iff]
  · rw [decode_opc_einit h, ne_eq, ite_engOk_eq_illegal_iff, ite_engOk_eq_badEng_iff, not_not]
    simp [h]
  · rw [decode_opc_eabsorb h, ne_eq, ite_engOk_eq_illegal_iff, ite_engOk_eq_badEng_iff, not_not]
    simp [h]
  · rw [decode_opc_efinal h, ne_eq, ite_engOk_eq_illegal_iff, ite_engOk_eq_badEng_iff, not_not]
    simp [h]
  · simp [decode_opc_reserved h]

/-- The word 0 is NOP's only word (R103). -/
theorem decode_eq_nop_iff (c : Word) : decode c = .instr .nop ↔ c = 0x00000000#32 := by
  constructor
  · intro hdec
    rw [decode_fields] at hdec
    split_ifs at hdec with hnop
    · obtain ⟨hopc, heng, hrsv, hoff, hlen⟩ := hnop
      exact word_ext hopc heng hrsv hoff hlen
    all_goals cases hdec
  · rintro rfl
    decide

end

end Sys2Proof
end

section
/-!
SUPPORT. The core step on a word that does not decode (R105, R133).
-/

namespace Sys2Proof.Machine

/-- No word that does not decode completes with OK, or with INTERNAL and so with FATAL (R105, R305). -/
theorem decodeErrorCode_ordinary (e : DecodeError) : decodeErrorCode e ≠ .ok ∧ decodeErrorCode e ≠ .internal := by
  cases e <;> decide

/-- The core step on a word that does not decode only completes with the decoder's error (R105, R307). -/
theorem coreStep_of_decode_error {s : State} {e : DecodeError} (h : decode s.seqCur = .error e) :
    coreStep s = .next (s.errorState (decodeErrorCode e)) := by
  obtain ⟨hok, hinternal⟩ := decodeErrorCode_ordinary e
  rw [coreStep, fetch, h, ← raise_ordinary s hok hinternal]

end Sys2Proof.Machine
end

section
/-!
The statements of spec/30_encoding.md: the fields of a word, the two errors of the decoder, and the worked examples.
-/

namespace Sys2Proof.Proofs

open Sys2Proof.Machine

/-- Settles O1: each field is a cut of the word's bits, and two words with the same fields are the same. -/
theorem fieldsAreTheBitsOfTheFormat : Obligations.FieldsAreTheBitsOfTheFormat := by
  refine fun c => ⟨?opc, toNat_field c 8 5, toNat_field c 13 3, toNat_field c 16 8, toNat_field c 24 8,
    fun hrsv => (buildWord_of_fields hrsv).symm⟩
  case opc => rw [fieldOpc, toNat_field, pow_zero, Nat.div_one]

/-- Settles O5: the decoder is followed opcode by opcode, and no decoder error commits anything or sets FATAL. -/
theorem reservedEncodingsAreIllegal : Obligations.ReservedEncodingsAreIllegal :=
  ⟨decode_eq_illegal_iff, fun _ => coreStep_of_decode_error, decode_eq_nop_iff⟩

/-- Settles O6: the decoder is followed opcode by opcode; `engOk` is its check of ENG. -/
theorem engineNumbersAbove16AreBadEng : Obligations.EngineNumbersAbove16AreBadEng := by
  refine ⟨fun c => ?_, fun _ => coreStep_of_decode_error⟩
  rw [decode_eq_badEng_iff, engOk_eq_false_iff]

/-- Settles O7: each example is a fixed word or command, which the decoder or the encoder evaluates. -/
theorem encodingExamplesDecodeAsListed : Obligations.EncodingExamplesDecodeAsListed := by
  unfold Obligations.EncodingExamplesDecodeAsListed
  decide

end Sys2Proof.Proofs
end

section
/-!
SUPPORT. What NOP and the three engine commands do to the whole state, command by command (R139 to R142), and how their
words decode.
-/

namespace Sys2Proof

/-- An engine command's word: its zero fields `p` are checked first, then its engine number (R104, R105). -/
theorem decode_engine_command {c : Word} {p : Prop} [Decidable p] {eng : BitVec 5} {i : Instr}
    (h : decode c = if p then if engOk eng then .instr i else .error .badEng else .error .illegal) :
    (¬ p → decode c = .error .illegal) ∧
    (p → (16 < eng.toNat → decode c = .error .badEng) ∧ (eng.toNat ≤ 16 → decode c = .instr i)) := by
  rw [h]
  refine ⟨fun hp => if_neg hp, fun hp => ⟨fun heng => ?_, fun heng => ?_⟩⟩
  · rw [if_pos hp, (engOk_eq_false_iff eng).mpr heng]
    rfl
  · have hok : engOk eng = true := decide_eq_true heng
    rw [if_pos hp, if_pos hok]

end Sys2Proof

namespace Sys2Proof.Machine

@[simp] theorem okState_msg (s : State) (e : Engine) : s.okState.msg e = s.msg e := rfl
@[simp] theorem okState_okState (s : State) : s.okState.okState = s.okState := rfl
@[simp] theorem writeDbuf_msg (s : State) (off : Nat) (d : Bytes) (e : Engine) :
    (s.writeDbuf off d).msg e = s.msg e := rfl

/-- Setting a message does not meet the flags of a normal completion. -/
@[simp] theorem okState_setMsg (s : State) (e : Engine) (m : Bytes) :
    s.okState.setMsg e m = (s.setMsg e m).okState := rfl

theorem raise_badEng (s : State) : raise .badEng s = s.errorState .badEng := raise_ordinary s (by decide) (by decide)

theorem raise_range (s : State) : raise .range s = s.errorState .range := raise_ordinary s (by decide) (by decide)

/-- NOP (R139). -/
theorem exec_nop (s : State) : exec .nop s = .next s.okState := by
  rw [exec, execNop, finish_nothing]

/-- EINIT (R140). -/
theorem exec_einit (e : Engine) (s : State) : exec (.einit e.field) s = .next (s.setMsg e []).okState := by
  simp only [exec, execEinit, engineOf?_field, finish_msg]

/-- EABSORB of bytes that lie in DBUF, onto a message that has room for them (R141). -/
theorem exec_eabsorb {s : State} {e : Engine} {off len : BitVec 8} (hbuf : off.toNat + len.toNat ≤ 128)
    (hmsg : (s.msg e).length + len.toNat ≤ 2 ^ 61 - 1) :
    exec (.eabsorb e.field off len) s =
      .next (s.setMsg e (s.msg e ++ Memory.readBytes s.mem (0x200 + off.toNat) len.toNat)).okState := by
  have hb : dbufFits off.toNat len.toNat = true := decide_eq_true hbuf
  have hm : msgFits s e len.toNat = true := decide_eq_true hmsg
  simp only [exec, execEabsorb, engineOf?_field, hb, hm, finish_msg, State.dbuf, dbufBase, Bool.not_true,
    Bool.false_eq_true, if_false]

/-- EABSORB of bytes past the end of DBUF, or onto a message without room for them (R141). -/
theorem exec_eabsorb_range {s : State} {e : Engine} {off len : BitVec 8}
    (h : 128 < off.toNat + len.toNat ∨ 2 ^ 61 - 1 < (s.msg e).length + len.toNat) :
    exec (.eabsorb e.field off len) s = .next (s.errorState .range) := by
  simp only [exec, execEabsorb, engineOf?_field, raise_range]
  rcases h with hbuf | hmsg
  · have hb : dbufFits off.toNat len.toNat = false := decide_eq_false (Nat.not_le.mpr hbuf)
    simp only [hb, Bool.not_false, if_true]
  · have hm : msgFits s e len.toNat = false := decide_eq_false (Nat.not_le.mpr hmsg)
    simp only [hm, Bool.not_false, if_true, ite_self]

/-- EFINAL of a digest that lies in DBUF (R142). -/
theorem exec_efinal {e : Engine} {off : BitVec 8} (hbuf : off.toNat + e.digestLen ≤ 128) (s : State) :
    exec (.efinal e.field off) s = .next ((s.writeDbuf off.toNat (e.hash (s.msg e))).setMsg e []).okState := by
  have hb : dbufFits off.toNat e.digestLen = true := decide_eq_true hbuf
  simp only [exec, execEfinal, engineOf?_field, hb, finish_dbuf_msg, Bool.not_true, Bool.false_eq_true, if_false]

/-- EFINAL of a digest that reaches past the end of DBUF (R142). -/
theorem exec_efinal_range {e : Engine} {off : BitVec 8} (hbuf : 128 < off.toNat + e.digestLen) (s : State) :
    exec (.efinal e.field off) s = .next (s.errorState .range) := by
  have hb : dbufFits off.toNat e.digestLen = false := decide_eq_false (Nat.not_le.mpr hbuf)
  simp only [exec, execEfinal, engineOf?_field, hb, Bool.not_false, if_true, raise_range]

section
variable {eng : BitVec 5} (h : 16 < eng.toNat) (s : State)
include h

/-- EINIT whose ENG names no engine (R302). -/
theorem exec_einit_badEng : exec (.einit eng) s = .next (s.errorState .badEng) := by
  simp only [exec, execEinit, engineOf?_none h, raise_badEng]

/-- EABSORB whose ENG names no engine, whatever OFF and LEN are (R302). -/
theorem exec_eabsorb_badEng (off len : BitVec 8) :
    exec (.eabsorb eng off len) s = .next (s.errorState .badEng) := by
  simp only [exec, execEabsorb, engineOf?_none h, raise_badEng]

/-- EFINAL whose ENG names no engine, whatever OFF is (R302). -/
theorem exec_efinal_badEng (off : BitVec 8) : exec (.efinal eng off) s = .next (s.errorState .badEng) := by
  simp only [exec, execEfinal, engineOf?_none h, raise_badEng]

end

/-- Two absorbs of adjacent bytes are one absorb of both (R141). -/
theorem exec_eabsorb_adjacent {s t : State} {e : Engine} {off len len' : BitVec 8}
    (hbuf : off.toNat + len.toNat + len'.toNat ≤ 128)
    (hmsg : (s.msg e).length + len.toNat + len'.toNat ≤ 2 ^ 61 - 1)
    (ht : exec (.eabsorb e.field off len) s = .next t) :
    exec (.eabsorb e.field (off + len) len') t = exec (.eabsorb e.field off (len + len')) s := by
  have hoff : (off + len).toNat = off.toNat + len.toNat := BitVec.toNat_add_of_lt (by omega)
  have hlen : (len + len').toNat = len.toNat + len'.toNat := BitVec.toNat_add_of_lt (by omega)
  rw [exec_eabsorb (by omega) (by omega)] at ht
  cases ht
  rw [exec_eabsorb (by omega) (by simpa using hmsg), exec_eabsorb (by omega) (by omega), hoff, hlen, readBytes_add]
  simp [Nat.add_assoc]

end Sys2Proof.Machine
end

section
/-!
SUPPORT. The digest widths of the engines (R2, R15), and the worked SHA-512 digest of R142.
-/

namespace Sys2Proof.Machine

/-- The engine functions have the digest widths of R2. -/
theorem hash_length : EngineWidths Engine.hash := by
  intro e m
  cases e with
  | blake => exact hashBlake_length m
  | bmw => exact hashBmw_length m
  | groestl => exact hashGroestl_length m
  | skein => exact hashSkein_length m
  | jh => exact hashJh_length m
  | keccak => exact hashKeccak_length m
  | luffa => exact Vector.length_toList
  | cubehash => exact hashCubeHash_length m
  | shavite => exact Vector.length_toList
  | simd => exact Vector.length_toList
  | echo => exact hashEcho_length m
  | hamsi => exact Vector.length_toList
  | fugue => exact Vector.length_toList
  | shabal => exact hashShabal_length m
  | whirlpool => exact hashWhirlpool_length m
  | sha512 => exact hashSha512_length m
  | haval => exact hashHaval_length m

/-- The first eight and the last four bytes of SHA-512 of "abc" (R142). -/
theorem hashSha512_abc :
    slice (Engine.hash .sha512 [0x61#8, 0x62#8, 0x63#8]) 0 8 =
      [0xdd#8, 0xaf#8, 0x35#8, 0xa1#8, 0x93#8, 0x61#8, 0x7a#8, 0xba#8] ∧
    slice (Engine.hash .sha512 [0x61#8, 0x62#8, 0x63#8]) 60 4 = [0xa5#8, 0x4c#8, 0xa4#8, 0x9f#8] := by
  decide +kernel

/-- A read of DBUF inside a longer read is a slice of it. -/
theorem dbuf_slice (s : State) (off : Nat) {i k n : Nat} (h : i + k ≤ n) :
    s.dbuf (off + i) k = slice (s.dbuf off n) i k := by
  obtain ⟨r, rfl⟩ := Nat.exists_eq_add_of_le h
  simp only [State.dbuf, ← Nat.add_assoc]
  rw [readBytes_add _ _ (i + k) r, readBytes_add _ _ i k, slice, List.append_assoc,
    List.drop_left' (readBytes_length _ _ i), List.take_left' (readBytes_length _ _ k)]

/-- EFINAL's digest stands in DBUF (R142). -/
theorem dbuf_writeDbuf_hash (s : State) (off : Nat) (e : Engine) (m : Bytes) :
    (s.writeDbuf off (e.hash m)).dbuf off e.digestLen = e.hash m := by
  rw [← hash_length e m]
  exact readBytes_writeBytes_same s.mem (dbufBase + off) (e.hash m)

/-- What EFINAL leaves in DBUF (R142). -/
theorem exec_efinal_dbuf {e : Engine} {off : BitVec 8} (hbuf : off.toNat + e.digestLen ≤ 128) (s : State) :
    ∃ t, exec (.efinal e.field off) s = .next t ∧ t.dbuf off.toNat e.digestLen = e.hash (s.msg e) :=
  ⟨_, exec_efinal hbuf s, dbuf_writeDbuf_hash s off.toNat e (s.msg e)⟩

end Sys2Proof.Machine
end

section
/-!
SUPPORT. What a write to each register and buffer does, and which offsets ignore writes (R70, R74, R134).
-/

namespace Sys2Proof.Machine

@[simp] theorem memWrite_variant (v : Word) (s : State) :
    memWrite 0x010 v s = guardedWrite (fun s => { s with variant := v }) s := rfl
@[simp] theorem memWrite_inlen (v : Word) (s : State) :
    memWrite 0x014 v s = guardedWrite (fun s => { s with inlen := v.setWidth 8 }) s := rfl

/-- A write in INBUF or DBUF is guarded (R134). -/
theorem memWrite_buffer {off : Nat} (h : (0x100 ≤ off ∧ off < 0x170) ∨ (0x200 ≤ off ∧ off < 0x280)) (v : Word)
    (s : State) : memWrite off v s = guardedWrite (writeBufferWord off v) s := by
  obtain ⟨hinbuf, hdbuf, -⟩ := target_of_buffer (off := off)
  rcases h with h | h
  · simp only [memWrite, hinbuf h]
  · simp only [memWrite, hdbuf h]

/-- ID, DIGEST and the reserved offsets ignore writes (R31, R40, R134). -/
theorem memWrite_ignored {off : Nat} (h : off = 0 ∨ (0x018 ≤ off ∧ off < 0x100) ∨ (0x170 ≤ off ∧ off < 0x200) ∨
    (0x280 ≤ off ∧ off < 0x400)) (v : Word) (s : State) : memWrite off v s = s := by
  obtain ⟨-, -, htarget⟩ := target_of_buffer (off := off)
  rcases Nat.eq_zero_or_pos off with rfl | hpos
  · exact memWrite_id v s
  · by_cases hdigest : 0x300 ≤ off ∧ off < 0x320
    · simp only [memWrite, htarget hdigest]
    · simp only [memWrite, target_reserved (off := off) (by omega)]

/-- While a command runs, a write to CMD or to one of its inputs is dropped (R134). -/
theorem memWrite_busy {s : State} (hbusy : s.busy = true) {off : Nat}
    (h : off = 0x00C ∨ off = 0x010 ∨ off = 0x014 ∨ (0x100 ≤ off ∧ off < 0x170) ∨ (0x200 ≤ off ∧ off < 0x280))
    (v : Word) : memWrite off v s = { s with drop := true } := by
  rcases h with rfl | rfl | rfl | hbuf
  · exact issue_dropped v (.inl hbusy)
  · rw [memWrite_variant, guardedWrite_busy _ hbusy]
  · rw [memWrite_inlen, guardedWrite_busy _ hbusy]
  · rw [memWrite_buffer hbuf, guardedWrite_busy _ hbusy]

end Sys2Proof.Machine
end

section
/-!
The statements of spec/40_engine_commands.md: the engine commands, NOP, the issue of a command, and the dropped writes.
-/

namespace Sys2Proof.Proofs

open Sys2Proof.Machine

/-- Settles O15: the decoder at EINIT's opcode, and EINIT's equation, which a second EINIT meets with S[e] empty. -/
theorem einitEmptiesTheMessage : Obligations.EinitEmptiesTheMessage := by
  refine ⟨fun c hopc => decode_engine_command (decode_opc_einit hopc), fun s e => ?completes,
    fun s eng heng => exec_einit_badEng heng s⟩
  case completes =>
    refine ⟨_, exec_einit e s, rfl, setMsg_msg_same s e [], fun e' he => setMsg_msg_other s [] he, fun a => rfl, ?again⟩
    case again => rw [exec_einit, okState_setMsg, setMsg_setMsg, okState_okState]

/-- Settles O16: the decoder at EABSORB's opcode, EABSORB's two equations, and adjacent reads of DBUF put together. -/
theorem eabsorbAppendsDataBufferBytes : Obligations.EabsorbAppendsDataBufferBytes := by
  refine ⟨fun c hopc => decode_engine_command (decode_opc_eabsorb hopc),
    fun s e off len => ⟨fun ⟨hbuf, hmsg⟩ => ?completes, exec_eabsorb_range⟩,
    fun s e off hoff hmsg => ?zeroLength, fun s e off len len' hbuf hmsg => ?adjacent,
    fun s eng off len heng => exec_eabsorb_badEng heng s off len⟩
  case completes =>
    exact ⟨_, exec_eabsorb hbuf hmsg, rfl, setMsg_msg_same s e _, fun e' he => setMsg_msg_other s _ he, fun a => rfl⟩
  case zeroLength =>
    have hempty : Memory.readBytes s.mem (0x200 + off.toNat) (0 : BitVec 8).toNat = [] := rfl
    rw [exec_eabsorb (len := 0) hoff hmsg, hempty, List.append_nil, setMsg_msg_self]
  case adjacent =>
    have ht := exec_eabsorb (s := s) (e := e) (off := off) (len := len) (by omega) (by omega)
    exact ⟨_, ht, exec_eabsorb_adjacent hbuf hmsg ht⟩

/-- Settles O17: the decoder at EFINAL's opcode, EFINAL's two equations, a digest of N_e bytes read back from DBUF, and
SHA-512 evaluated on "abc". -/
theorem efinalWritesTheDigest : Obligations.EfinalWritesTheDigest := by
  refine ⟨fun c hopc => decode_engine_command (decode_opc_efinal hopc),
    fun s e off => ⟨fun hbuf => ?completes, fun hbuf => exec_efinal_range hbuf s⟩,
    fun s eng off heng => exec_efinal_badEng heng s off, fun s habc => ?worked⟩
  case completes =>
    refine ⟨_, exec_efinal hbuf s, rfl, dbuf_writeDbuf_hash s off.toNat e (s.msg e), fun a ha => ?frame,
      setMsg_msg_same _ e [], fun e' he => setMsg_msg_other _ [] he⟩
    case frame => exact read_writeBytes_outside s.mem (by rwa [hash_length])
  case worked =>
    obtain ⟨hfirst, hlast⟩ := hashSha512_abc
    obtain ⟨t, ht, hdbuf⟩ := exec_efinal_dbuf (e := .sha512) (off := 0) (by decide) s
    rw [habc] at hdbuf
    rw [← hdbuf] at hfirst hlast
    exact ⟨t, ht, (dbuf_slice t 0 (i := 0) (k := 8) (by decide)).trans hfirst,
      (dbuf_slice t 0 (i := 60) (k := 4) (by decide)).trans hlast⟩

/-- Settles O39: each offset by its target in the address map; an aligned write is always answered. -/
theorem busyAndFaultProtection : Obligations.BusyAndFaultProtection := by
  intro s v
  refine ⟨fun hbusy off _ hoff => memWrite_busy hbusy hoff v, fun hfatal => issue_dropped v (.inr hfatal),
    writeCtrl_plain s, writeCtrl_srst s, memWrite_status v s, fun off hoff => memWrite_ignored hoff v s,
    fun off d halign => ?answered⟩
  case answered => rw [busAccess_write halign]

/-- Settles O14: the word 0 is NOP's only word, NOP's opcode has no other, and a completion with nothing staged changes
STATUS alone. -/
theorem nopOnlyCompletes : Obligations.NopOnlyCompletes := by
  refine ⟨decode_eq_nop_iff, fun c hopc hc => ?otherWords, exec_nop, fun s hirq hdrop hfatal => ?worked⟩
  case otherWords =>
    rw [ne_eq, ← decode_eq_nop_iff, decode_opc_nop hopc] at hc
    rw [decode_opc_nop hopc, if_neg fun hzero => hc (if_pos hzero)]
  case worked =>
    refine ⟨_, exec_nop s, ?_, ?_⟩
    · simp [State.statusWord, hdrop, hfatal, flagBit, ResultCode.code]
    · simp [State.irq, hirq]

/-- Settles O40: the write to CMD is the issue, dropped or accepted. -/
theorem issueOfACommand : Obligations.IssueOfACommand :=
  fun s c => ⟨issue_dropped c, fun hbusy hfatal => ⟨Config.lat s.draws (latencyKey c s), issue_accepted c hbusy hfatal⟩⟩

end Sys2Proof.Proofs
end

section
/-!
SUPPORT. The sequencer as the function of R288: a run of stages is a fold of the stage function over WBUF, and the whole
cascade ends with `xevanFn` in the front of WBUF, whatever private state it finds (R271, R274).
-/

namespace Sys2Proof.Machine

/-- A digest over the front of the buffer is the stage function, for digests of the right width (R276, R288). -/
theorem overwriteFront_eq_stageFn {H : EngineSet} (hH : EngineWidths H) (e : Engine) (b : Bytes) :
    overwriteFront b (H e b) = stageFn H e b := by
  rw [overwriteFront, hH, stageFn]

/-- A run of stage functions keeps the width of its buffer (R287). -/
theorem foldl_stageFn_length {H : EngineSet} (hH : EngineWidths H) (es : List Engine) {b : Bytes}
    (hb : b.length = 128) : (es.foldl (fun b e => stageFn H e b) b).length = 128 := by
  induction es generalizing b with
  | nil => exact hb
  | cons e es ih => exact ih (stageFn_length hH e hb)

/-- A stage that absorbs WBUF, which is every one but the first of pass 1 (R273), applies its stage function. -/
theorem runStage_buffer {H : EngineSet} (hH : EngineWidths H) (n : Nat) (x : Bytes) {p : Pass} {e : Engine}
    {c : Cascade} (hbuf : ¬ (p = .first ∧ e = .blake)) (hc : c.wbuf.length = 128) :
    ∃ c', runStage H n x p e c = some c' ∧ c'.wbuf = stageFn H e c.wbuf := by
  have hinput : stageInput p e x c.wbuf = c.wbuf := if_neg hbuf
  have hwidth : stageWidth p e n = 128 := if_neg hbuf
  refine ⟨_, runStage_some H (by rw [hinput, hwidth, hc]), ?_⟩
  rw [hinput]
  exact overwriteFront_eq_stageFn hH e c.wbuf

/-- Stages that absorb WBUF run through, and fold their stage functions over it (R287, R288). -/
theorem runStages_foldl {H : EngineSet} (hH : EngineWidths H) (n : Nat) (x : Bytes) {p : Pass} {es : List Engine}
    (hbuf : ∀ e ∈ es, ¬ (p = .first ∧ e = .blake)) {c : Cascade} (hc : c.wbuf.length = 128) :
    ∃ c', runStages H n x p es c = some c' ∧ c'.wbuf = es.foldl (fun b e => stageFn H e b) c.wbuf := by
  induction es generalizing c with
  | nil => exact ⟨c, rfl, rfl⟩
  | cons e es ih =>
    obtain ⟨c1, hrun, hw1⟩ := runStage_buffer hH n x (hbuf e List.mem_cons_self) hc
    obtain ⟨c2, hruns, hw2⟩ :=
      ih (fun e' he' => hbuf e' (List.mem_cons_of_mem e he')) (c := c1) (by rw [hw1, stageFn_length hH e hc])
    refine ⟨c2, ?_, by rw [hw2, hw1, List.foldl_cons]⟩
    rw [runStages_cons, hrun, Option.bind_some, hruns]

/-- Pass 1 up to any stage: Blake absorbs the input over the zeroed buffer, the others absorb WBUF (R271, R273). -/
theorem runStages_first {H : EngineSet} (hH : EngineWidths H) {n : Nat} {x : Bytes} (hx : x.length = n)
    {es : List Engine} (hes : .blake ∉ es) (c : Cascade) :
    ∃ c', runStages H n x .first (.blake :: es) { c with wbuf := zeros 128 } = some c' ∧
      c'.wbuf = es.foldl (fun b e => stageFn H e b) (H .blake x ++ zeros 64) := by
  have hblake : overwriteFront (zeros 128) (H .blake x) = H .blake x ++ zeros 64 := by
    rw [overwriteFront, hH, zeros, List.drop_replicate]
    rfl
  have hwidth : (H .blake x ++ zeros 64).length = 128 := by rw [List.length_append, hH, zeros_length]; rfl
  have hinput : (stageInput .first .blake x (zeros 128)).length = stageWidth .first .blake n := hx
  have hlater : ∀ e ∈ es, ¬ (Pass.first = .first ∧ e = .blake) := fun e he ⟨_, heq⟩ => hes (heq ▸ he)
  rw [runStages_cons, runStage_some H hinput, Option.bind_some, ← hblake]
  exact runStages_foldl hH n x hlater (hblake ▸ hwidth)

/-- Pass 1 leaves a buffer of 128 bytes (R287). -/
theorem pass1Fn_length {H : EngineSet} (hH : EngineWidths H) (x : Bytes) : (pass1Fn H x).length = 128 :=
  foldl_stageFn_length hH _ (by rw [List.length_append, hH, zeros_length]; rfl)

/-- Pass 2 starts from a buffer of 128 bytes (R277). -/
theorem midFn_length {H : EngineSet} (hH : EngineWidths H) (x : Bytes) : (midFn H x).length = 128 := by
  rw [midFn, List.length_append, List.length_take, pass1Fn_length hH, zeros_length]
  rfl

/-- The cascade's digest has the 32 bytes of DIGEST (R279). -/
theorem xevanFn_length {H : EngineSet} (hH : EngineWidths H) (x : Bytes) : (xevanFn H x).length = 32 := by
  rw [xevanFn, List.length_take, pass2Fn, foldl_stageFn_length hH _ (midFn_length hH x)]
  rfl

/-- The sequencer runs through both passes and leaves the function of R288 in WBUF. -/
theorem runCascade_wbuf {H : EngineSet} (hH : EngineWidths H) {n : Nat} {x : Bytes} (hx : x.length = n)
    (c : Cascade) : ∃ c', runCascade H n x c = some c' ∧ c'.wbuf = pass2Fn H (midFn H x) := by
  obtain ⟨c1, hrun1, hw1⟩ := runStages_first hH hx (es := Engine.all.drop 1) (by decide) c
  have hmid : (zeroUpper c1).wbuf = midFn H x := by rw [zeroUpper, hw1]; rfl
  obtain ⟨c2, hrun2, hw2⟩ :=
    runStages_foldl hH n x (p := .second) (es := Engine.all) (by simp) (hmid ▸ midFn_length hH x)
  refine ⟨c2, ?_, by rw [hw2, hmid, pass2Fn]⟩
  have hpass1 : runStages H n x .first Engine.all { c with wbuf := zeros 128 } = some c1 := hrun1
  rw [runCascade, hpass1]
  exact hrun2

end Sys2Proof.Machine
end

section
/-!
SUPPORT. What XEVAN does to the whole state (R270, R279, R284), and what it leaves of what a host can read (R280).
-/

namespace Sys2Proof.Machine

/-- The checks on INLEN: RANGE, then PRECOND, else the cascade (R284). -/
theorem inlen_cases (s : State) :
    112 < s.inlen.toNat ∨ (s.inlen.toNat ≤ 112 ∧ s.inlen.toNat < inputLen s.variant) ∨
    (inputLen s.variant ≤ s.inlen.toNat ∧ s.inlen.toNat ≤ 112) := by omega

theorem inputLen_four : inputLen 4#32 = 112 := if_pos rfl

theorem inputLen_of_ne {v : Word} (h : v ≠ 4#32) : inputLen v = 80 := if_neg h

theorem inputLen_le (v : Word) : inputLen v ≤ 112 := by
  unfold inputLen
  split <;> decide

theorem raise_precond (s : State) : raise .precond s = s.errorState .precond :=
  raise_ordinary s (by decide) (by decide)

/-- XEVAN with INLEN above the size of INBUF (R284). -/
theorem exec_xevan_range {s : State} (h : 112 < s.inlen.toNat) : exec .xevan s = .next (s.errorState .range) := by
  rw [exec, execXevan, inbufSize, if_pos h, raise_range]

/-- XEVAN with INLEN below n(VARIANT) (R284). -/
theorem exec_xevan_precond {s : State} (hmax : s.inlen.toNat ≤ 112) (h : s.inlen.toNat < inputLen s.variant) :
    exec .xevan s = .next (s.errorState .precond) := by
  rw [exec, execXevan, inbufSize, if_neg (Nat.not_lt.mpr hmax), if_pos h, raise_precond]

/-- XEVAN with an accepted INLEN: the cascade's digest goes to DIGEST, and some private state is left (R279). -/
theorem exec_xevan {s : State} (hmin : inputLen s.variant ≤ s.inlen.toNat) (hmax : s.inlen.toNat ≤ 112) :
    ∃ c : Cascade, exec .xevan s =
      .next (({ s with casc := c } : State).writeDigest
        (xevanFn Engine.hash (s.inbuf (inputLen s.variant)))).okState := by
  obtain ⟨c, hrun, hw⟩ :=
    runCascade_wbuf hash_length (readBytes_length s.mem inbufBase (inputLen s.variant)) s.casc
  refine ⟨c, ?_⟩
  rw [exec, execXevan, inbufSize, if_neg (Nat.not_lt.mpr hmax), if_neg (Nat.not_lt.mpr hmin)]
  simp only [State.inbuf, hrun, finish_digest, hw, xevanFn]

/-- XEVAN with an INLEN that fails a check completes with an error, which changes STATUS alone (R284). -/
theorem exec_xevan_rejected {s : State} (h : ¬ (inputLen s.variant ≤ s.inlen.toNat ∧ s.inlen.toNat ≤ 112)) :
    ∃ code, code ≠ .ok ∧ exec .xevan s = .next (s.errorState code) := by
  rcases inlen_cases s with hrange | ⟨hmax, hprecond⟩ | haccept
  · exact ⟨.range, by decide, exec_xevan_range hrange⟩
  · exact ⟨.precond, by decide, exec_xevan_precond hmax hprecond⟩
  · exact absurd haccept h

/-- A digest of 32 bytes is DIGEST's new contents (R40). -/
theorem digest_writeDigest (s : State) {d : Bytes} (h : d.length = 32) : (s.writeDigest d).digest = d := by
  rw [State.digest, digestSize, ← h]
  exact readBytes_writeBytes_same s.mem digestBase d

/-- What XEVAN leaves in DIGEST (R279). -/
theorem exec_xevan_digest {s : State} (hmin : inputLen s.variant ≤ s.inlen.toNat) (hmax : s.inlen.toNat ≤ 112) :
    ∃ t, exec .xevan s = .next t ∧ t.err = .ok ∧ t.digest = xevanFn Engine.hash (s.inbuf (inputLen s.variant)) := by
  obtain ⟨c, hexec⟩ := exec_xevan hmin hmax
  exact ⟨_, hexec, rfl, digest_writeDigest _ (xevanFn_length hash_length _)⟩

/-- Accepted runs of XEVAN over the same input bytes leave the same DIGEST and ERR (R283). -/
theorem exec_xevan_digest_congr {s s' : State} {n : Nat} (hn : inputLen s.variant = n) (hn' : inputLen s'.variant = n)
    (hmin : n ≤ s.inlen.toNat) (hmax : s.inlen.toNat ≤ 112) (hmin' : n ≤ s'.inlen.toNat) (hmax' : s'.inlen.toNat ≤ 112)
    (hinbuf : s'.inbuf n = s.inbuf n) :
    GivesNext (exec .xevan s) fun t => GivesNext (exec .xevan s') fun t' => t'.digest = t.digest ∧ t'.err = t.err := by
  obtain ⟨t, ht, herr, hdigest⟩ := exec_xevan_digest (hn ▸ hmin) hmax
  obtain ⟨t', ht', herr', hdigest'⟩ := exec_xevan_digest (hn' ▸ hmin') hmax'
  refine ⟨t, ht, t', ht', ?_, by rw [herr', herr]⟩
  rw [hdigest', hdigest, hn', hn, hinbuf]

/-- A shorter read of INBUF is the front of a longer one. -/
theorem inbuf_take (s : State) {n k : Nat} (h : n ≤ k) : (s.inbuf k).take n = s.inbuf n := by
  obtain ⟨r, rfl⟩ := Nat.exists_eq_add_of_le h
  rw [State.inbuf, readBytes_add, List.take_left' (readBytes_length _ _ n), State.inbuf]

/-- STATUS stands at one offset (R70). -/
theorem target_status {off : Nat} (h : target off = .status) : off = 0x008 := by
  unfold target at h
  split_ifs at h
  assumption

/-- A read elsewhere than at STATUS depends on IRQ_EN, VARIANT, INLEN and the four bytes at its offset (R73). -/
theorem memRead_congr {s t : State} {off : Nat} (hoff : off ≠ 0x008) (hirq : t.irqEn = s.irqEn)
    (hvariant : t.variant = s.variant) (hinlen : t.inlen = s.inlen)
    (hmem : Memory.readBytes t.mem off 4 = Memory.readBytes s.mem off 4) : memRead t off = memRead s off := by
  unfold memRead
  cases htarget : target off with
  | status => exact absurd (target_status htarget) hoff
  | ctrl => exact congrArg (flagBit · 0) hirq
  | variant => exact hvariant
  | inlen => exact congrArg (BitVec.setWidth 32) hinlen
  | inbuf | dbuf | digest => exact congrArg le32 hmem
  | id | cmd | reserved => rfl

/-- What the host reads after XEVAN wrote DIGEST, away from STATUS and DIGEST (R280). -/
theorem memRead_writeDigest (s : State) {d : Bytes} (hd : d.length = 32) {off : Nat} (halign : off % 4 = 0)
    (hstatus : off ≠ 0x008) (hdigest : ¬ (0x300 ≤ off ∧ off < 0x320)) :
    memRead (s.writeDigest d).okState off = memRead s off := by
  refine memRead_congr hstatus rfl rfl rfl (readBytes_writeBytes_outside s.mem ?_)
  rw [hd, digestBase]
  omega

end Sys2Proof.Machine
end

section
/-!
The statements of spec/45_orchestrator.md on XEVAN's input: its length and its checks, what XEVAN leaves alone, and what
its digest depends on.
-/

namespace Sys2Proof.Proofs

open Sys2Proof.Machine

/-- Settles O23: the two checks in their order. -/
theorem xevanChecksItsInputLength : Obligations.XevanChecksItsInputLength :=
  fun _ => ⟨exec_xevan_range, exec_xevan_precond⟩

/-- Settles O22: VARIANT compared with 4, and ERR in each of the three cases of the checks on INLEN. -/
theorem variantSelectsTheInputLength : Obligations.VariantSelectsTheInputLength := by
  refine ⟨fun v => ⟨fun hv => hv ▸ inputLen_four, inputLen_of_ne⟩, fun s => ?accepted⟩
  case accepted =>
    by_cases haccept : inputLen s.variant ≤ s.inlen.toNat ∧ s.inlen.toNat ≤ 112
    · obtain ⟨t, ht, herr, -⟩ := exec_xevan_digest haccept.1 haccept.2
      exact ⟨t, ht, fun _ => haccept, fun _ => herr⟩
    · obtain ⟨code, hcode, hexec⟩ := exec_xevan_rejected haccept
      exact ⟨_, hexec, fun herr => absurd herr hcode, fun h => absurd h haccept⟩

/-- Settles O24: an error changes STATUS alone, and a normal completion writes the 32 bytes of DIGEST, which no other
read meets; ERR and DIGEST are given by VARIANT, INLEN and the input bytes. -/
theorem xevanTouchesNeitherMessagesNorDbuf : Obligations.XevanTouchesNeitherMessagesNorDbuf := by
  refine ⟨fun s => ?frame, fun s s' hvariant hinlen hinbuf hdigest => ?depends⟩
  case frame =>
    by_cases haccept : inputLen s.variant ≤ s.inlen.toNat ∧ s.inlen.toNat ≤ 112
    · obtain ⟨c, hexec⟩ := exec_xevan haccept.1 haccept.2
      have hdbuf : 0x200 + 0 + 128 ≤ 0x300 := by decide
      exact ⟨_, hexec, rfl, readBytes_writeBytes_outside s.mem (.inl hdbuf),
        fun _ halign _ hoff hout => memRead_writeDigest _ (xevanFn_length hash_length _) halign hoff hout, rfl, rfl,
        fun herr => absurd rfl herr⟩
    · obtain ⟨code, -, hexec⟩ := exec_xevan_rejected haccept
      exact ⟨_, hexec, rfl, rfl, fun _ _ _ hoff _ => memRead_congr hoff rfl rfl rfl rfl, rfl, rfl, fun _ => rfl⟩
  case depends =>
    rcases inlen_cases s with hrange | ⟨hmax, hprecond⟩ | ⟨hmin, hmax⟩
    · exact ⟨_, exec_xevan_range hrange, _, exec_xevan_range (hinlen ▸ hrange), hdigest, rfl⟩
    · exact ⟨_, exec_xevan_precond hmax hprecond, _,
        exec_xevan_precond (hinlen ▸ hmax) (by rwa [hinlen, hvariant]), hdigest, rfl⟩
    · have hinput : s'.inbuf (inputLen s.variant) = s.inbuf (inputLen s.variant) := by
        rw [← inbuf_take s' (inputLen_le s.variant), hinbuf, inbuf_take s (inputLen_le s.variant)]
      exact exec_xevan_digest_congr rfl (congrArg inputLen hvariant) hmin hmax (by rwa [hinlen]) (hinlen ▸ hmax) hinput

/-- Settles O27: both states read the same n bytes of INBUF, n being 80 in the first case and 112 in the second. -/
theorem inputBytesThatDoNotMatter : Obligations.InputBytesThatDoNotMatter := by
  refine ⟨fun s s' hv hv' hmin hmax hmin' hmax' hinbuf => ?eighty, fun s s' hv hv' hlen hlen' hinbuf => ?whole⟩
  case eighty =>
    obtain ⟨t, ht, t', ht', hdigest, -⟩ :=
      exec_xevan_digest_congr (inputLen_of_ne hv) (inputLen_of_ne hv') hmin hmax hmin' hmax' hinbuf
    exact ⟨t, ht, t', ht', hdigest⟩
  case whole =>
    obtain ⟨t, ht, t', ht', hdigest, -⟩ :=
      exec_xevan_digest_congr (hv ▸ inputLen_four) (hv' ▸ inputLen_four) hlen.ge hlen.le hlen'.ge hlen'.le hinbuf
    exact ⟨t, ht, t', ht', hdigest⟩

end Sys2Proof.Proofs
end

section
/-!
SUPPORT. What an error leaves of the state (R307), and which completions are RANGE (R303).
-/

namespace Sys2Proof.Machine

/-- The core step does what a command can do, also on a word that does not decode (R105, R133). -/
theorem coreStep_effect (s : State) : ∃ t, coreStep s = .next t ∧ CommandEffect s t := by
  unfold coreStep
  cases fetch s with
  | error e => exact ⟨_, rfl, .error (decodeErrorCode e) (decodeErrorCode_ordinary e).1⟩
  | instr i => exact exec_effect i s

/-- A completion with a code other than OK commits nothing: only the STATUS fields change, FATAL by INTERNAL alone
(R307). -/
theorem CommandEffect.of_err_ne_ok {s t : State} (h : CommandEffect s t) (herr : t.err ≠ .ok) :
    t = { s.errorState t.err with fatal := s.fatal || t.err == .internal } := by
  cases h with
  | error code hcode =>
    have hraised : (raise code s).err = code := (complete_completesWith code s).err
    rw [hraised, raise_eq s hcode]
  | nothing | message | digest | cascade => exact absurd (finish_completesWith _ _).err herr

/-- A command that is not well formed names no engine, and completes with BADENG (R104, R302). -/
theorem exec_badEng {i : Instr} (h : i.wellFormed = false) (s : State) : exec i s = .next (s.errorState .badEng) := by
  cases i with
  | nop => cases h
  | xevan => cases h
  | einit eng => exact exec_einit_badEng ((engOk_eq_false_iff eng).mp h) s
  | eabsorb eng off len => exact exec_eabsorb_badEng ((engOk_eq_false_iff eng).mp h) s off len
  | efinal eng off => exact exec_efinal_badEng ((engOk_eq_false_iff eng).mp h) s off

/-- An ENG field that is well formed holds some engine's number (R2, R104). -/
theorem exists_field_eq {eng : BitVec 5} (h : engOk eng = true) : ∃ e : Engine, e.field = eng := by
  obtain ⟨e, he⟩ := Option.isSome_iff_exists.mp ((engineOf?_isSome eng).trans h)
  refine ⟨e, ?_⟩
  rw [Engine.field, engineOf?_some he, BitVec.ofNat_toNat, BitVec.setWidth_eq]

/-- EINIT has no range to check: it ends with OK, or with BADENG (R140). -/
theorem exec_einit_err_ne_range (eng : BitVec 5) (s : State) :
    GivesNext (exec (.einit eng) s) fun t => t.err ≠ .range := by
  cases hok : engOk eng with
  | false => exact ⟨_, exec_badEng (i := .einit eng) hok s, by simp⟩
  | true =>
    obtain ⟨e, rfl⟩ := exists_field_eq hok
    exact ⟨_, exec_einit e s, by simp⟩

/-- No word that does not decode completes with RANGE (R105, R303). -/
theorem decodeErrorCode_ne_range (e : DecodeError) : decodeErrorCode e ≠ .range := by
  cases e <;> decide

/-- An outcome is RANGE exactly under p, when it is RANGE's error state under p and has another code elsewhere. -/
theorem givesNext_range_iff {o : Host.Outcome State Fault Refusal} {s : State} {p : Prop}
    (hrange : p → o = .next (s.errorState .range)) (hother : ¬ p → GivesNext o fun t => t.err ≠ .range) :
    GivesNext o fun t => (t.err = .range ↔ p) := by
  by_cases hp : p
  · exact ⟨_, hrange hp, iff_of_true rfl hp⟩
  · obtain ⟨t, ht, herr⟩ := hother hp
    exact ⟨t, ht, iff_of_false herr hp⟩

end Sys2Proof.Machine
end

section
/-!
The statements of spec/60_exceptions.md: what an error changes, and when RANGE is raised.
-/

namespace Sys2Proof.Proofs

open Sys2Proof.Machine

/-- Settles O29: everything a command or the core step can do is a `CommandEffect`, whose one error case commits
nothing. -/
theorem errorsAreAtomic : Obligations.ErrorsAreAtomic := by
  refine ⟨fun i s t hexec herr => ?command, fun s t hcore herr => ?core⟩
  case command =>
    obtain ⟨u, hu, heff⟩ := exec_effect i s
    cases hu.symm.trans hexec
    exact heff.of_err_ne_ok herr
  case core =>
    obtain ⟨u, hu, heff⟩ := coreStep_effect s
    cases hu.symm.trans hcore
    exact heff.of_err_ne_ok herr

/-- Settles O31: each of the three commands by its equation where its checks pass and its equation where they fail. -/
theorem rangeIsRaisedInTheseCasesOnly : Obligations.RangeIsRaisedInTheseCasesOnly := by
  refine fun s => ⟨fun e off len => givesNext_range_iff exec_eabsorb_range fun hfits => ?eabsorb,
    fun e off => givesNext_range_iff (exec_efinal_range · s) fun hfits => ?efinal,
    givesNext_range_iff exec_xevan_range fun hfits => ?xevan, fun i hi => ?otherCommands, fun e he => ?undecodable⟩
  case eabsorb => exact ⟨_, exec_eabsorb (by omega) (by omega), by simp⟩
  case efinal => exact ⟨_, exec_efinal (by omega) s, by simp⟩
  case xevan =>
    rcases inlen_cases s with hrange | ⟨hmax, hprecond⟩ | ⟨hmin, hmax⟩
    · exact absurd hrange hfits
    · exact ⟨_, exec_xevan_precond hmax hprecond, by simp⟩
    · obtain ⟨t, ht, herr, -⟩ := exec_xevan_digest hmin hmax
      exact ⟨t, ht, by simp [herr]⟩
  case otherCommands =>
    rcases hi with rfl | ⟨eng, rfl⟩ | hbad
    · exact ⟨_, exec_nop s, by simp⟩
    · exact exec_einit_err_ne_range eng s
    · exact ⟨_, exec_badEng hbad s, by simp⟩
  case undecodable => exact ⟨_, coreStep_of_decode_error he, decodeErrorCode_ne_range e⟩

end Sys2Proof.Proofs
end

section
/-!
SUPPORT. What a reset of the block leaves (R330, R332), and when the core has no step to take (R131).
-/

namespace Sys2Proof.Machine

/-- Every address reads zero in a block just reset (R53). -/
theorem resetBlock_read (s : State) (a : Nat) : Memory.read (resetBlock s).mem a = 0x00#8 := memory_read_nil a

/-- Every message is empty in a block just reset (R53). -/
theorem resetBlock_msg (s : State) (e : Engine) : (resetBlock s).msg e = [] := reset_msg e

/-- STATUS reads zero in a block just reset (R33, R53). -/
theorem resetBlock_statusWord (s : State) : (resetBlock s).statusWord = 0#32 := by
  simp [State.statusWord, flagBit, ResultCode.code]

/-- CTRL reads zero in a block just reset (R32, R53). -/
theorem resetBlock_ctrlWord (s : State) : (resetBlock s).ctrlWord = 0#32 := by
  simp [State.ctrlWord, flagBit]

/-- A reset gives every register, buffer and message its reset value, in every state (R330, R332). -/
theorem resetBlock_atReset (s : State) : (resetBlock s).AtReset :=
  ⟨rfl, rfl, rfl, rfl, rfl, rfl, resetBlock_statusWord s, resetBlock_ctrlWord s, rfl, rfl, resetBlock_read s,
    resetBlock_msg s, rfl⟩

/-- The core takes no step in an idle block (R131). -/
theorem coreTurn_idle {s : State} (h : s.busy = false) : coreTurn s = false := by
  simp [coreTurn, h]

end Sys2Proof.Machine
end

section
/-!
The statements of spec/70_reset_and_hazards.md that speak of one write: the issue of a command, and the soft reset.
-/

namespace Sys2Proof.Proofs

open Sys2Proof.Machine

/-- Settles O41: the bus write at CMD is the accepted issue, and the interrupt follows DONE, which the issue lowers. -/
theorem noStaleDone : Obligations.NoStaleDone := by
  rintro s _ c rfl hbusy hfatal
  have hissue : memWrite (0x00C#10).toNat (c.setWidth 32) s = issue (c.setWidth 32) s := memWrite_cmd _ s
  rw [busAccess_write (off := 0x00C#10) rfl, hissue, issue_accepted _ hbusy hfatal]
  exact ⟨rfl, rfl, Bool.and_false s.irqEn⟩

/-- Settles O45: with SRST = 1 the write is the reset of the block, which leaves it idle with nothing staged; without,
it sets IRQ_EN alone. -/
theorem softResetRestoresTheResetState : Obligations.SoftResetRestoresTheResetState := by
  refine ⟨fun s v hsrst => ?reset, fun s v hplain => ?plain⟩
  case reset =>
    rw [memWrite_ctrl, writeCtrl_srst s hsrst]
    exact ⟨resetBlock_atReset s, memRead_id _, coreTurn_idle (resetBlock_busy s), resetBlock_seqRes s⟩
  case plain => rw [memWrite_ctrl, writeCtrl_plain s hplain]

end Sys2Proof.Proofs
end

section
/-!
SUPPORT. The round trip between commands and their words (R100, R102, R105), and the opcode that sets the rows of the
opcode map apart (R102).
-/

namespace Sys2Proof

@[simp] theorem encode_einit (eng : BitVec 5) : encode (.einit eng) = buildWord 0x10#8 eng 0#8 0#8 := rfl
@[simp] theorem encode_eabsorb (eng : BitVec 5) (off len : BitVec 8) :
    encode (.eabsorb eng off len) = buildWord 0x11#8 eng off len := rfl
@[simp] theorem encode_efinal (eng : BitVec 5) (off : BitVec 8) :
    encode (.efinal eng off) = buildWord 0x12#8 eng off 0#8 := rfl

/-- The word of a well-formed command decodes to the command: its opcode picks the row, its fields hold the operands,
and the fields it does not use are zero (R100, R102, R105). -/
theorem decode_encode {i : Instr} (h : i.wellFormed = true) : decode (encode i) = .instr i := by
  cases i with
  | nop => decide
  | xevan => decide
  | einit eng =>
    obtain ⟨hopc, heng, hrsv, hoff, hlen⟩ := buildWord_fields 0x10#8 eng 0#8 0#8
    rw [encode_einit, decode_opc_einit hopc, if_pos ⟨hrsv, hoff, hlen⟩, heng]
    exact if_pos h
  | eabsorb eng off len =>
    obtain ⟨hopc, heng, hrsv, hoff, hlen⟩ := buildWord_fields 0x11#8 eng off len
    rw [encode_eabsorb, decode_opc_eabsorb hopc, if_pos hrsv, heng, hoff, hlen]
    exact if_pos h
  | efinal eng off =>
    obtain ⟨hopc, heng, hrsv, hoff, hlen⟩ := buildWord_fields 0x12#8 eng off 0#8
    rw [encode_efinal, decode_opc_efinal hopc, if_pos ⟨hrsv, hlen⟩, heng, hoff]
    exact if_pos h

/-- The decoder answers well-formed commands alone (R104, R105). -/
theorem wellFormed_of_decode {c : Word} {i : Instr} (h : decode c = .instr i) : i.wellFormed = true := by
  simp only [decode] at h
  split at h
  · cases h
  · split at h
    · next hwf => cases h; exact hwf
    · cases h

/-- A word whose RSV is 0 is built from any values that its other fields have (R100). -/
theorem buildWord_eq {c : Word} {opc : BitVec 8} {eng : BitVec 5} {off len : BitVec 8} (hopc : fieldOpc c = opc)
    (heng : fieldEng c = eng) (hrsv : fieldRsv c = 0#3) (hoff : fieldOff c = off) (hlen : fieldLen c = len) :
    buildWord opc eng off len = c := by
  rw [← hopc, ← heng, ← hoff, ← hlen, buildWord_of_fields hrsv]

/-- A word is the word of the command it decodes to: the fields the command does not hold are zero (R102, R103). -/
theorem encode_of_decode {c : Word} {i : Instr} (h : decode c = .instr i) : encode i = c := by
  rw [decode_fields] at h
  split_ifs at h with hnop hxevan heinit _ heabsorb _ hefinal _ <;> cases h
  · obtain ⟨hopc, heng, hrsv, hoff, hlen⟩ := hnop
    exact buildWord_eq hopc heng hrsv hoff hlen
  · obtain ⟨hopc, heng, hrsv, hoff, hlen⟩ := hxevan
    exact buildWord_eq hopc heng hrsv hoff hlen
  · obtain ⟨hopc, hrsv, hoff, hlen⟩ := heinit
    exact buildWord_eq hopc rfl hrsv hoff hlen
  · obtain ⟨hopc, hrsv⟩ := heabsorb
    exact buildWord_eq hopc rfl hrsv rfl rfl
  · obtain ⟨hopc, hrsv, hlen⟩ := hefinal
    exact buildWord_eq hopc rfl hrsv rfl hlen

/-- Every row of the opcode map compares the whole opcode (R102). -/
theorem fieldOpc_maskBits {r : OpcodeRow} (h : r ∈ opcodeMap) : fieldOpc r.maskBits = 255#8 := by
  revert r; decide

/-- The rows of the opcode map have different opcodes (R102). -/
theorem row_eq_of_fieldOpc {r r' : OpcodeRow} (h : r ∈ opcodeMap) (h' : r' ∈ opcodeMap)
    (hopc : fieldOpc r.matchBits = fieldOpc r'.matchBits) : r = r' :=
  have distinct : ∀ r ∈ opcodeMap, ∀ r' ∈ opcodeMap, fieldOpc r.matchBits = fieldOpc r'.matchBits → r = r' := by
    decide
  distinct r h r' h' hopc

/-- A word that fits a row has the row's opcode (R102). -/
theorem fieldOpc_of_fits {c : Word} {r : OpcodeRow} (h : r ∈ opcodeMap) (hfit : c &&& r.maskBits = r.matchBits) :
    fieldOpc c = fieldOpc r.matchBits := by
  rw [← hfit, fieldOpc_and, fieldOpc_maskBits h, and_ones8]

end Sys2Proof
end

section
/-!
The statements of spec/30_encoding.md on the round trip and on the rows of the opcode map.
-/

namespace Sys2Proof.Proofs

open Sys2Proof.Machine

/-- Settles O2: the decoder at the opcode of each command, on a word whose fields are the command's operands. -/
theorem decodeOfEncodeIsTheCommand : Obligations.DecodeOfEncodeIsTheCommand := fun _ => decode_encode

/-- Settles O3: the rows of the opcode map leave no bit of a word open but the operands of its command. -/
theorem encodeOfDecodeIsTheWord : Obligations.EncodeOfDecodeIsTheWord :=
  fun _ _ h => ⟨encode_of_decode h, wellFormed_of_decode h⟩

/-- Settles O4: both rows have the word's opcode, and no two rows share one. -/
theorem atMostOneRowMatches : Obligations.AtMostOneRowMatches := by
  intro c r r' hr hr' hfit hfit'
  exact row_eq_of_fieldOpc hr hr' ((fieldOpc_of_fits hr hfit).symm.trans (fieldOpc_of_fits hr' hfit'))

end Sys2Proof.Proofs
end

section
/-!
SUPPORT. Everything one step of the block can do (R131, R346): the core completes the running command, one event of the
outside world is served, or nothing happens. A property that every step keeps is shown by these cases alone.
-/

namespace Sys2Proof.Machine

/-- Everything the event `ev` of the outside world can do to the state s (R72, R330, R346). -/
inductive HostEffect (ev : HostEvent) (s : State) : State → Prop where
  | reset : ev = .reset → HostEffect ev s (resetBlock s)
  | answer (r : Response) : HostEffect ev s { s with resp := some r }
  | write (off : BitVec 10) (v : BitVec 64) {t : State} :
      ev = .access (Config.base + off.toNat) .bits32 (.write v) → off.toNat % 4 = 0 →
      WriteEffect off.toNat (v.setWidth 32) s t → HostEffect ev s { t with resp := some .written }

/-- Everything a step can do (R131, R346). -/
inductive StepEffect (s : State) : State → Prop where
  | core {t : State} : s.busy = true → coreStep s = .next t → StepEffect s t
  | host (ev : HostEvent) (rest : List HostEvent) {t : State} : s.inbox = ev :: rest →
      HostEffect ev (takeEvent rest s) t → StepEffect s t
  | idle : StepEffect s s

theorem hostStep_effect {ev : HostEvent} {s t : State} (h : hostStep ev s = .next t) : HostEffect ev s t := by
  cases ev with
  | reset => cases h; exact .reset rfl
  | access addr w d =>
    simp only [hostStep] at h
    split at h
    · cases h
    · next off hoff =>
      cases h
      obtain ⟨r, heq⟩ | ⟨v, u, rfl, h4, rfl, -, heff, heq⟩ := busAccess_effect off w d s
      · rw [heq]; exact .answer r
      · rw [heq]; exact .write off v (by rw [blockOffset?_some hoff]) h4 heff

/-- The core's turn comes only while a command runs (R131). -/
theorem busy_of_coreTurn {s : State} (h : coreTurn s = true) : s.busy = true := (Bool.and_eq_true_iff.mp h).1

theorem step_effect {s t : State} (h : step s = .next t) : StepEffect s t := by
  obtain ⟨hturn, hstep⟩ | ⟨-, ev, rest, hinbox, hstep⟩ | ⟨-, -, hstep⟩ := step_cases s
  · exact .core (busy_of_coreTurn hturn) (hstep ▸ h)
  · exact .host ev rest hinbox (hostStep_effect (hstep ▸ h))
  · rw [hstep] at h
    cases h
    exact .idle

end Sys2Proof.Machine
end

section
/-!
SUPPORT. The invariant of the block (R34, R46, R49, R70), kept by every command and every event: STATUS by the lemmas
above, the rest part by part.
-/

namespace Sys2Proof.Machine

/-- The block offsets that belong to a buffer (R70). -/
theorem inBuffer_iff (a : Nat) : inBuffer a = true ↔
    (0x100 ≤ a ∧ a < 0x170) ∨ (0x200 ≤ a ∧ a < 0x280) ∨ (0x300 ≤ a ∧ a < 0x320) := by
  simp only [inBuffer, Bool.or_eq_true, Bool.and_eq_true, decide_eq_true_eq, or_assoc]
  exact Iff.rfl

/-- Bytes that the checks of R141 and R142 let pass lie inside DBUF. -/
theorem inBuffer_dbuf {off n i : Nat} (h : off + n ≤ dbufSize) (hi : i < n) : inBuffer (dbufBase + off + i) = true := by
  simp only [dbufSize] at h
  rw [inBuffer_iff, dbufBase]
  omega

/-- The bytes of DIGEST lie inside its window (R40). -/
theorem inBuffer_digest {i : Nat} (hi : i < 32) : inBuffer (digestBase + i) = true := by
  rw [inBuffer_iff, digestBase]
  omega

/-- A byte string written inside the buffers keeps them canonical and inside their windows (R70). -/
theorem memOk_writeBytes {s t : State} (hs : s.MemOk) {a : Nat} {d : Bytes}
    (ha : ∀ i, i < d.length → inBuffer (a + i) = true) (ht : t.mem = Memory.writeBytes s.mem a d) : t.MemOk := by
  obtain ⟨hwf, hwin⟩ := hs
  rw [State.MemOk, ht]
  exact ⟨wf_writeBytes a d hwf, inWindows_writeBytes ha hwin⟩

/-- Setting one message to one of at most MAXMSG bytes keeps the bound of R46. -/
theorem msgsOk_setMsg {s : State} (hs : s.MsgsOk) (e : Engine) {m : Bytes} (hm : m.length ≤ Config.maxMsg) :
    (s.setMsg e m).MsgsOk := by
  intro e'
  by_cases he : e' = e
  · rw [he, setMsg_msg_same]; exact hm
  · rw [setMsg_msg_other s m he]; exact hs e'

/-- The cascade leaves a working buffer of 128 bytes, whatever buffer it finds (R49, R271). -/
theorem runCascade_wbuf_length {n : Nat} {x : Bytes} (hx : x.length = n) {c c' : Cascade}
    (h : runCascade Engine.hash n x c = some c') : c'.wbuf.length = 128 := by
  obtain ⟨u, hu, hw⟩ := runCascade_wbuf hash_length hx c
  cases h.symm.trans hu
  rw [hw]
  exact foldl_stageFn_length hash_length _ (midFn_length hash_length x)

theorem reset_inv : State.reset.Inv :=
  ⟨statusOk_reset, ⟨rfl, rfl⟩, fun e => by simp, cascade_reset_wbuf_length, rfl⟩

/-- Every command keeps the invariant: what it stages lies inside its buffer, and no message outgrows MAXMSG. -/
theorem CommandEffect.inv {s t : State} (h : CommandEffect s t) (hb : s.busy = true) (hs : s.Inv) : t.Inv := by
  obtain ⟨code, hc⟩ := h.completesWith
  have hstatus : t.StatusOk := hc.statusOk hb hs.1
  obtain ⟨-, hmem, hmsgs, hwbuf, hres⟩ := hs
  refine ⟨hstatus, ?_⟩
  cases h with
  | error code hcode => rw [raise_eq s hcode]; exact ⟨hmem, hmsgs, hwbuf, hres⟩
  | nothing => rw [finish_nothing]; exact ⟨hmem, hmsgs, hwbuf, rfl⟩
  | message e m hm => rw [finish_msg]; exact ⟨hmem, msgsOk_setMsg hmsgs e hm, hwbuf, rfl⟩
  | digest off e hfits =>
    rw [finish_dbuf_msg]
    refine ⟨memOk_writeBytes hmem (fun i hi => inBuffer_dbuf hfits ?_) rfl, msgsOk_setMsg hmsgs e (Nat.zero_le _),
      hwbuf, rfl⟩
    rwa [hash_length] at hi
  | cascade c hrun =>
    have hwidth := runCascade_wbuf_length (readBytes_length _ _ _) hrun
    rw [finish_digest]
    refine ⟨memOk_writeBytes hmem (fun i hi => inBuffer_digest ?_) rfl, hmsgs, hwidth, rfl⟩
    rw [List.length_take, hwidth] at hi
    exact hi

/-- Every write keeps the invariant: a word of a writable buffer lies whole inside its window (R70, R72). -/
theorem WriteEffect.inv {off : Nat} {v : Word} {s t : State} (h : WriteEffect off v s t) (h4 : off % 4 = 0)
    (hs : s.Inv) : t.Inv := by
  have hstatus : t.StatusOk := h.statusOk hs.1
  obtain ⟨-, hmem, hmsgs, hwbuf, hres⟩ := hs
  refine ⟨hstatus, ?_⟩
  cases h with
  | softReset _ _ => exact reset_inv.2
  | issued hb hf => rw [issue_accepted v hb hf]; exact ⟨hmem, hmsgs, hwbuf, hres⟩
  | buffer _ htarget =>
    refine ⟨memOk_writeBytes hmem (fun i hi => inBuffer_of_target htarget h4 ?_) rfl, hmsgs, hwbuf, hres⟩
    rwa [toLe32_length] at hi
  | ignored | irqEnable | acknowledged | dropped | variant | inlen => exact ⟨hmem, hmsgs, hwbuf, hres⟩

theorem HostEffect.inv {ev : HostEvent} {s t : State} (h : HostEffect ev s t) (hs : s.Inv) : t.Inv := by
  cases h with
  | reset _ => exact reset_inv
  | answer r => exact hs
  | write off v _ h4 heff => exact heff.inv h4 hs

theorem step_inv {s t : State} (hs : s.Inv) (h : step s = .next t) : t.Inv := by
  cases step_effect h with
  | core hb hcore =>
    obtain ⟨u, hu, heff⟩ := coreStep_effect s
    cases hu.symm.trans hcore
    exact heff.inv hb hs
  | host ev rest hinbox heff => exact heff.inv (s := takeEvent rest s) hs
  | idle => exact hs

end Sys2Proof.Machine
end

section
/-!
The statements of spec/10_state.md on the invariant of the block.
-/

namespace Sys2Proof.Proofs

open Sys2Proof.Machine

/-- Settles O48: each case of `StepEffect` keeps each part of the invariant. -/
theorem everyStepKeepsTheInvariant : Obligations.EveryStepKeepsTheInvariant := fun _ _ => step_inv

/-- Settles O47: after reset no flag is set, no byte is listed and every message is empty. -/
theorem resetMeetsTheInvariant : Obligations.ResetMeetsTheInvariant := reset_inv

end Sys2Proof.Proofs
end

section
/-!
SUPPORT. The codes a command can complete with, what every command keeps (R133, R305), and that nothing but the
completions sets FATAL.
-/

namespace Sys2Proof.Machine

/-- No engine command completes with INTERNAL: ENG names an engine, and then OK or RANGE, or it does not (R300). -/
theorem exec_eabsorb_field_err (e : Engine) (off len : BitVec 8) (s : State) :
    GivesNext (exec (.eabsorb e.field off len) s) fun t => t.err ≠ .internal := by
  by_cases h : 128 < off.toNat + len.toNat ∨ 2 ^ 61 - 1 < (s.msg e).length + len.toNat
  · exact ⟨_, exec_eabsorb_range h, by simp⟩
  · exact ⟨_, exec_eabsorb (by omega) (by omega), by simp⟩

theorem exec_efinal_field_err (e : Engine) (off : BitVec 8) (s : State) :
    GivesNext (exec (.efinal e.field off) s) fun t => t.err ≠ .internal := by
  by_cases h : 128 < off.toNat + e.digestLen
  · exact ⟨_, exec_efinal_range h s, by simp⟩
  · exact ⟨_, exec_efinal (by omega) s, by simp⟩

/-- XEVAN never finds the width invariant broken, from whatever cascade state it starts (R287). -/
theorem exec_xevan_err (s : State) : GivesNext (exec .xevan s) fun t => t.err ≠ .internal := by
  rcases inlen_cases s with hrange | ⟨hmax, hprecond⟩ | ⟨hmin, hmax⟩
  · exact ⟨_, exec_xevan_range hrange, by simp⟩
  · exact ⟨_, exec_xevan_precond hmax hprecond, by simp⟩
  · obtain ⟨t, ht, herr, -⟩ := exec_xevan_digest hmin hmax
    exact ⟨t, ht, by simp [herr]⟩

/-- No command completes with INTERNAL, well formed or not (R287, R305). -/
theorem exec_err_ne_internal (i : Instr) (s : State) : GivesNext (exec i s) fun t => t.err ≠ .internal := by
  cases hwf : i.wellFormed with
  | false => exact ⟨_, exec_badEng hwf s, by simp⟩
  | true =>
    cases i with
    | nop => exact ⟨_, exec_nop s, by simp⟩
    | xevan => exact exec_xevan_err s
    | einit eng =>
      obtain ⟨e, rfl⟩ := exists_field_eq hwf
      exact ⟨_, exec_einit e s, by simp⟩
    | eabsorb eng off len =>
      obtain ⟨e, rfl⟩ := exists_field_eq hwf
      exact exec_eabsorb_field_err e off len s
    | efinal eng off =>
      obtain ⟨e, rfl⟩ := exists_field_eq hwf
      exact exec_efinal_field_err e off s

/-- No command sets FATAL (R305). -/
theorem exec_fatal {i : Instr} {s t : State} (h : exec i s = .next t) : t.err ≠ .internal ∧ t.fatal = s.fatal := by
  obtain ⟨code, u, hu, hc⟩ := exec_completesWith i s
  obtain ⟨v, hv, herr⟩ := exec_err_ne_internal i s
  cases hu.symm.trans h
  cases hv.symm.trans h
  refine ⟨herr, ?_⟩
  rw [hc.err] at herr
  simp [hc.fatal, herr]

/-- The core step sets FATAL for no word, decodable or not (R305). -/
theorem coreStep_fatal {s t : State} (h : coreStep s = .next t) : t.fatal = s.fatal := by
  cases hd : decode s.seqCur with
  | error e => rw [coreStep_of_decode_error hd] at h; cases h; rfl
  | instr i =>
    rw [coreStep, fetch, hd] at h
    exact (exec_fatal h).2

/-- What a command leaves of its inputs, its word and the accesses still to come. -/
structure KeepsInputs (s t : State) : Prop where
  variant : t.variant = s.variant
  inlen : t.inlen = s.inlen
  seqCur : t.seqCur = s.seqCur
  inbox : t.inbox = s.inbox

/-- Every command keeps them: it writes STATUS, and commits to buffers and messages alone (R133). -/
theorem CommandEffect.keepsInputs {s t : State} (h : CommandEffect s t) : KeepsInputs s t := by
  cases h with
  | error code hcode => rw [raise_eq s hcode]; exact ⟨rfl, rfl, rfl, rfl⟩
  | nothing => rw [finish_nothing]; exact ⟨rfl, rfl, rfl, rfl⟩
  | message e m _ => rw [finish_msg]; exact ⟨rfl, rfl, rfl, rfl⟩
  | digest off e _ => rw [finish_dbuf_msg]; exact ⟨rfl, rfl, rfl, rfl⟩
  | cascade c _ => rw [finish_digest]; exact ⟨rfl, rfl, rfl, rfl⟩

end Sys2Proof.Machine
end

section
/-!
SUPPORT. What an event of the outside world does to FATAL, and to a running command (R134, R305, R346).
-/

namespace Sys2Proof.Machine

/-- No write sets FATAL (R305). -/
theorem WriteEffect.fatal {off : Nat} {v : Word} {s t : State} (h : WriteEffect off v s t) (hs : s.fatal = false) :
    t.fatal = false := by
  cases h with
  | softReset => rfl
  | issued hb hf => rw [issue_accepted v hb hf]; exact hs
  | ignored | irqEnable | acknowledged | dropped | variant | inlen | buffer => exact hs

theorem step_fatal {s t : State} (hs : s.fatal = false) (h : step s = .next t) : t.fatal = false := by
  cases step_effect h with
  | core _ hcore => rw [coreStep_fatal hcore, hs]
  | host ev rest _ heff =>
    cases heff with
    | reset => rfl
    | answer => exact hs
    | write _ _ _ _ heff => exact heff.fatal hs
  | idle => exact hs

/-- What the running command reads, its word, its latency and its place in the block are those of s (R134, R135). -/
structure StillRunning (s t : State) : Prop where
  inputs : SameInputs s t
  msgs : t.msgs = s.msgs
  seqCur : t.seqCur = s.seqCur
  casc : t.casc = s.casc
  busy : t.busy = true
  err : t.err = s.err
  latLeft : t.latLeft = s.latLeft

/-- While a command runs, a write leaves it running as it was, or is the soft reset (R134, R332). -/
theorem WriteEffect.stillRunning {off : Nat} {v : Word} {s t : State} (h : WriteEffect off v s t)
    (hs : s.busy = true) : StillRunning s t ∨ (off = 0x004 ∧ v[1] = true ∧ t = resetBlock s) := by
  cases h with
  | softReset hoff hsrst => exact .inr ⟨hoff, hsrst, rfl⟩
  | issued hb | variant hb | inlen hb | buffer hb => simp [hs] at hb
  | ignored | irqEnable | acknowledged | dropped => exact .inl ⟨⟨rfl, rfl, rfl⟩, rfl, rfl, rfl, hs, rfl, rfl⟩

/-- While a command runs, an access leaves it running as it was, or is the soft reset (R134, R332). -/
theorem busAccess_stillRunning (off : BitVec 10) (w : Width) (d : Dir) {s : State} (hs : s.busy = true) :
    StillRunning s (busAccess off w d s) ∨
    (off = 0x004#10 ∧ w = .bits32 ∧ ∃ v : BitVec 64, d = .write v ∧ v[1] = true ∧
      busAccess off w d s = { resetBlock s with resp := some .written }) := by
  obtain ⟨r, heq⟩ | ⟨v, t, hw, -, hd, -, heff, heq⟩ := busAccess_effect off w d s
  · rw [heq]
    exact .inl ⟨⟨rfl, rfl, rfl⟩, rfl, rfl, rfl, hs, rfl, rfl⟩
  · obtain hrun | ⟨hoff, hsrst, rfl⟩ := heff.stillRunning hs
    · rw [heq]
      exact .inl ⟨hrun.inputs, hrun.msgs, hrun.seqCur, hrun.casc, hrun.busy, hrun.err, hrun.latLeft⟩
    · exact .inr ⟨BitVec.eq_of_toNat_eq hoff, hw, v, hd, by simpa using hsrst, heq⟩

/-- A reset and the answer to the write that asked for it leave the block in its reset state (R332). -/
theorem resetBlock_answered_atReset (s : State) (r : Option Response) : State.AtReset { resetBlock s with resp := r } :=
  resetBlock_atReset { s with resp := r }

/-- What one event does while a command runs: it stops the run outside the block, resets the block, or leaves the
command running (R70, R346). -/
theorem hostStep_running (ev : HostEvent) {s : State} (hs : s.busy = true) :
    (∃ addr, hostStep ev s = .fault (.outsideBlock addr)) ∨
    ∃ t, hostStep ev s = .next t ∧ (t.AtReset ∨ StillRunning s t) := by
  cases ev with
  | reset => exact .inr ⟨_, rfl, .inl (resetBlock_atReset s)⟩
  | access addr w d =>
    simp only [hostStep]
    split
    · exact .inl ⟨addr, rfl⟩
    · next off _ =>
      refine .inr ⟨_, rfl, ?_⟩
      obtain hrun | ⟨-, -, v, -, -, heq⟩ := busAccess_stillRunning off w d hs
      · exact .inr hrun
      · rw [heq]
        exact .inl (resetBlock_answered_atReset s _)

/-- A running command whose turn has not come has latency left and an access pending (R346). -/
theorem pending_of_not_coreTurn {s : State} (hs : s.busy = true) (h : coreTurn s = false) :
    s.latLeft ≠ 0 ∧ s.inbox ≠ [] := by
  simpa [coreTurn, hs] using h

/-- A run of one step more is the step and then the rest of the run. -/
theorem run_succ_of_step {s t : State} (h : step s = .next t) (n : Nat) :
    Host.Core.run core (n + 1) s = Host.Core.run core n t := by
  have hcore : core.step s = .next t := h
  simp only [Host.Core.run, hcore]

/-- A run whose first step stops with a fault stops there. -/
theorem run_one_of_fault {s : State} {f : Fault} (h : step s = .fault f) : Host.Core.run core 1 s = .fault f := by
  have hcore : core.step s = .fault f := h
  simp only [Host.Core.run, hcore]

/-- What a run of a running command comes to within its latency (R346). -/
def ReachesCoreStep (s : State) (n : Nat) : Prop :=
  (∃ addr, Host.Core.run core n s = .fault (.outsideBlock addr)) ∨
  (∃ t : State, Host.Core.run core n s = .next t ∧ (t.AtReset ∨ (coreTurn t = true ∧ t.seqCur = s.seqCur)))

/-- The latency counts the events down, and each leaves the command running, resets the block or stops the run. -/
theorem exists_reachesCoreStep (k : Nat) {s : State} (hs : s.busy = true) (hk : s.latLeft = k) :
    ∃ n ≤ k, ReachesCoreStep s n := by
  induction k generalizing s with
  | zero => exact ⟨0, Nat.le_refl 0, .inr ⟨s, rfl, .inr ⟨by simp [coreTurn, hs, hk], rfl⟩⟩⟩
  | succ k ih =>
    obtain ⟨hturn, -⟩ | ⟨hturn, ev, rest, -, hstep⟩ | ⟨hturn, hempty, -⟩ := step_cases s
    · exact ⟨0, Nat.zero_le _, .inr ⟨s, rfl, .inr ⟨hturn, rfl⟩⟩⟩
    · obtain ⟨addr, hfault⟩ | ⟨t, hnext, hreset | hrun⟩ := hostStep_running ev (s := takeEvent rest s) hs
      · exact ⟨1, by omega, .inl ⟨addr, run_one_of_fault (hstep.trans hfault)⟩⟩
      · exact ⟨1, by omega, .inr ⟨t, run_succ_of_step (hstep.trans hnext) 0, .inl hreset⟩⟩
      · have hlat : t.latLeft = k := by rw [hrun.latLeft, takeEvent_latLeft, hk, Nat.add_sub_cancel]
        obtain ⟨n, hn, hreach⟩ := ih hrun.busy hlat
        refine ⟨n + 1, by omega, ?_⟩
        rw [ReachesCoreStep, run_succ_of_step (hstep.trans hnext)]
        rwa [ReachesCoreStep, hrun.seqCur] at hreach
    · exact absurd hempty (pending_of_not_coreTurn hs hturn).2

end Sys2Proof.Machine
end

section
/-!
SUPPORT. The model's own fields on pending accesses, latency and last answer take no part in a command (R346, R347).
-/

namespace Sys2Proof.Machine

/-- The state s with other pending accesses, another latency, another number of draws and another last answer. -/
def State.withTiming (s : State) (q : List HostEvent) (l d : Nat) (r : Option Response) : State :=
  { s with inbox := q, latLeft := l, draws := d, resp := r }

section
variable (q : List HostEvent) (l d : Nat) (r : Option Response)

@[simp] theorem withTiming_msg (s : State) (e : Engine) : (s.withTiming q l d r).msg e = s.msg e := rfl
@[simp] theorem withTiming_dbuf (s : State) (off len : Nat) :
    (s.withTiming q l d r).dbuf off len = s.dbuf off len := rfl
@[simp] theorem withTiming_inbuf (s : State) (n : Nat) : (s.withTiming q l d r).inbuf n = s.inbuf n := rfl
@[simp] theorem withTiming_variant (s : State) : (s.withTiming q l d r).variant = s.variant := rfl
@[simp] theorem withTiming_inlen (s : State) : (s.withTiming q l d r).inlen = s.inlen := rfl
@[simp] theorem withTiming_casc (s : State) : (s.withTiming q l d r).casc = s.casc := rfl
@[simp] theorem withTiming_msgFits (s : State) (e : Engine) (len : Nat) :
    msgFits (s.withTiming q l d r) e len = msgFits s e len := rfl

/-- A completion commits and sets STATUS alike under any timing (R133). -/
@[simp] theorem complete_withTiming (code : ResultCode) (s : State) :
    complete code (s.withTiming q l d r) = (complete code s).withTiming q l d r := by
  have hcommit : (s.withTiming q l d r).commit = s.commit.withTiming q l d r := by
    unfold State.commit State.withTiming
    rcases s.seqRes with ⟨_ | _, _ | _, _ | _⟩ <;> rfl
  unfold complete
  split
  · rw [hcommit]; rfl
  · rfl

@[simp] theorem raise_withTiming (code : ResultCode) (s : State) :
    raise code (s.withTiming q l d r) = (raise code s).withTiming q l d r := complete_withTiming q l d r code s

@[simp] theorem finish_withTiming (staged : Staged) (s : State) :
    finish staged (s.withTiming q l d r) = (finish staged s).withTiming q l d r :=
  complete_withTiming q l d r .ok { s with seqRes := staged }

/-- A completion of XEVAN under other timing (R279). -/
theorem finish_casc_withTiming (staged : Staged) (c : Cascade) (s : State) :
    finish staged { s.withTiming q l d r with casc := c } = (finish staged { s with casc := c }).withTiming q l d r :=
  finish_withTiming q l d r staged { s with casc := c }

/-- A command under other timing ends in the same state but for the timing: its checks and what it stages read other
fields (R347). -/
theorem exec_withTiming {i : Instr} {s t : State} (h : exec i s = .next t) :
    exec i (s.withTiming q l d r) = .next (t.withTiming q l d r) := by
  cases i with
  | nop =>
    cases h
    exact congrArg Host.Outcome.next (finish_withTiming q l d r {} s)
  | xevan =>
    simp only [exec, execXevan] at h
    split_ifs at h with hrange hprecond
    · cases h; simp [exec, execXevan, hrange]
    · cases h; simp [exec, execXevan, hrange, hprecond]
    · split at h <;> cases h
      · next hnone => simp [exec, execXevan, hrange, hprecond, hnone]
      · next c hc =>
        simp only [exec, execXevan, withTiming_inlen, withTiming_variant, withTiming_inbuf, withTiming_casc, hrange,
          hprecond, hc, if_false]
        exact congrArg Host.Outcome.next (finish_casc_withTiming q l d r _ c s)
  | einit eng =>
    simp only [exec, execEinit] at h ⊢
    split at h <;> cases h
    · rw [raise_withTiming]
    · rw [finish_withTiming]
  | eabsorb eng off len =>
    simp only [exec, execEabsorb] at h ⊢
    split at h
    · cases h; rw [raise_withTiming]
    · split_ifs at h with hbuf hmsg <;> cases h
      · simp [hbuf]
      · simp [hbuf, hmsg]
      · simp [hbuf, hmsg]
  | efinal eng off =>
    simp only [exec, execEfinal] at h ⊢
    split at h
    · cases h; rw [raise_withTiming]
    · split_ifs at h with hbuf <;> cases h
      · simp [hbuf]
      · simp [hbuf]

end

end Sys2Proof.Machine
end

section
/-!
SUPPORT. What two states must share for the same latency to be drawn (R285, R348).
-/

namespace Sys2Proof.Machine

/-- The latency key of a word depends on VARIANT, INLEN and the lengths of the messages (R285, R348). -/
theorem latencyKey_congr (c : Word) {s s' : State} (hvariant : s'.variant = s.variant) (hinlen : s'.inlen = s.inlen)
    (hmsg : ∀ e : Engine, (s'.msg e).length = (s.msg e).length) : latencyKey c s' = latencyKey c s := by
  simp only [latencyKey, hvariant, hinlen, hmsg]

end Sys2Proof.Machine
end

section
/-!
SUPPORT. STATUS as a number (R33).
-/

namespace Sys2Proof.Machine

/-- The flags stand in bits 0 to 3 and ERR above them (R33). -/
theorem toNat_statusWord (s : State) :
    s.statusWord.toNat =
      s.busy.toNat + 2 * s.done.toNat + 4 * s.drop.toNat + 8 * s.fatal.toNat + 16 * s.err.code.toNat := by
  have fields : ∀ (busy done drop fatal : Bool) (err : BitVec 4),
      (flagBit busy 0 ||| flagBit done 1 ||| flagBit drop 2 ||| flagBit fatal 3 ||| (err.setWidth 32 <<< 4)).toNat =
        busy.toNat + 2 * done.toNat + 4 * drop.toNat + 8 * fatal.toNat + 16 * err.toNat := by decide
  exact fields s.busy s.done s.drop s.fatal s.err.code

end Sys2Proof.Machine
end

section
/-!
SUPPORT. The core's turn and the words issued to it (R131, R133).
-/

namespace Sys2Proof.Machine

theorem coreTurn_of_busy {s : State} (hs : s.busy = true) (h : s.latLeft = 0 ∨ s.inbox = []) : coreTurn s = true := by
  simpa [coreTurn, hs] using h

theorem coreTurn_eq_false {s : State} (hinbox : s.inbox ≠ []) (h : s.busy = false ∨ s.latLeft ≠ 0) :
    coreTurn s = false := by
  simpa [coreTurn, hinbox, imp_iff_not_or] using h

/-- At the core's turn the step is the core step (R131). -/
theorem step_of_coreTurn {s : State} (h : coreTurn s = true) : step s = coreStep s := if_pos h

/-- The core step on a word that decodes is its command (R133). -/
theorem coreStep_of_decode_instr {s : State} {i : Instr} (h : decode s.seqCur = .instr i) : coreStep s = exec i s := by
  rw [coreStep, fetch, h]

end Sys2Proof.Machine
end

section
/-!
The statements of spec/40_engine_commands.md section 1 and spec/70_reset_and_hazards.md on the steps of the two agents,
and of spec/60_exceptions.md on FATAL.
-/

namespace Sys2Proof.Proofs

open Sys2Proof.Machine

/-- Settles O8: the core's turn, and the core step on a word of each kind. -/
theorem stepRunsTheDecodedCommand : Obligations.StepRunsTheDecodedCommand := by
  intro s hbusy hturn
  rw [step_of_coreTurn (coreTurn_of_busy hbusy hturn)]
  exact ⟨fun _ => coreStep_of_decode_instr, coreStep_of_decode_error, coreStep_of_decode_error⟩

/-- Settles O9: where it is not the core's turn, the case of `step` is given by the pending accesses, and an access by
its offset from BASE. -/
theorem stepServesTheNextAccess : Obligations.StepServesTheNextAccess := by
  refine ⟨fun s ev rest hinbox hwait => ?serves, fun s hinbox hidle => ?idle, fun s off w d => ?inside,
    fun s addr w d hout => ?outside, fun s => rfl, Nat.mul_mod_right _ _⟩
  case serves =>
    have hturn : coreTurn s = false := coreTurn_eq_false (by simp [hinbox]) hwait
    simp only [step, hturn, hinbox, Bool.false_eq_true, if_false, takeEvent]
  case idle => simp only [step, coreTurn_idle hidle, hinbox, Bool.false_eq_true, if_false]
  case inside => simp only [hostStep, blockOffset?_base]
  case outside =>
    have hnone : blockOffset? addr = none := if_neg (by simp only [Config.span]; omega)
    simp only [hostStep, hnone]

/-- Settles O10: induction on the latency left, which every event counts down. -/
theorem runningCommandReachesItsCoreStep : Obligations.RunningCommandReachesItsCoreStep :=
  fun s hbusy => exists_reachesCoreStep s.latLeft hbusy rfl

/-- Settles O11: the issue leaves no latency, so the next step is the core step on the word. -/
theorem fetchWordRunsNext : Obligations.FetchWordRunsNext := by
  refine fun s w i hdec => ⟨?table, ?runs⟩
  case table => rw [decodeTableWord, hdec]
  case runs =>
    rw [State.withFetchWord, step_of_coreTurn (coreTurn_of_busy (issued_busy s _) (.inl (issued_latLeft s _)))]
    exact coreStep_of_decode_instr hdec

/-- Settles O12: every check, every staged result and the completion are the same under other timing. -/
theorem resultsDoNotDependOnTiming : Obligations.ResultsDoNotDependOnTiming :=
  fun _ _ _ q l d r h => exec_withTiming q l d r h

/-- Settles O13: the two issues draw with the same key and the same count. -/
theorem latencyDoesNotDependOnData : Obligations.LatencyDoesNotDependOnData := by
  intro c s s' hbusy hfatal hbusy' hfatal' hdraws hvariant hinlen hmsg
  rw [issue_accepted c hbusy hfatal, issue_accepted c hbusy' hfatal']
  simp only [hdraws, latencyKey_congr c hvariant hinlen hmsg]

/-- Settles O28: every command completes and keeps its inputs; it leaves STATUS and the interrupt by the completion. -/
theorem everyCommandCompletes : Obligations.EveryCommandCompletes := by
  intro i s
  obtain ⟨t, ht, heff⟩ := exec_effect i s
  obtain ⟨code, hc⟩ := heff.completesWith
  have hkeep := heff.keepsInputs
  exact ⟨t, ht, hc.busy, hc.done, hc.irqEn, hc.irq, hc.drop, hkeep.variant, hkeep.inlen, hkeep.seqCur, hkeep.inbox⟩

/-- Settles O30: the one check that raises INTERNAL is XEVAN's, and its cascade runs through. -/
theorem noCommandIsInternal : Obligations.NoCommandIsInternal := by
  intro i s
  obtain ⟨t, ht, -⟩ := exec_effect i s
  exact ⟨t, ht, exec_fatal ht⟩

/-- Settles O32: the words decode as listed, and XEVAN checks INLEN against 112 before it looks at VARIANT. -/
theorem errorPrecedenceExamples : Obligations.ErrorPrecedenceExamples := by
  refine fun s => ⟨fun hcur => coreStep_of_decode_error (e := .badEng) ?efinal,
    fun hcur => coreStep_of_decode_error (e := .badEng) ?eabsorb,
    fun hcur => coreStep_of_decode_error (e := .illegal) ?illegal, fun hcur hinlen _ => ?xevan⟩
  case efinal | eabsorb | illegal => rw [hcur]; decide
  case xevan =>
    have hdec : decode s.seqCur = .instr .xevan := by rw [hcur]; decide
    rw [coreStep_of_decode_instr hdec, exec_xevan_range (by rw [hinlen]; decide)]

/-- Settles O35: the register map reads STATUS, whose fields do not overlap. -/
theorem statusWordLayout : Obligations.StatusWordLayout := fun s => by rw [memRead_status, toNat_statusWord]

/-- Settles O42: an access leaves the running command as it was, or is the soft reset. -/
theorem runningCommandsInputsAreFrozen : Obligations.RunningCommandsInputsAreFrozen := by
  intro s off w d hbusy
  refine (busAccess_stillRunning off w d hbusy).imp_left fun hrun => ?_
  exact ⟨hrun.inputs, hrun.msgs, hrun.seqCur, hrun.casc, hrun.busy, hrun.err⟩

/-- Settles O46: the reset input is the reset of the block, which leaves the accesses still to come, the draws and the
last answer. -/
theorem platformResetRestoresTheResetState : Obligations.PlatformResetRestoresTheResetState :=
  fun s => ⟨_, rfl, resetBlock_atReset s, memRead_id _, coreTurn_idle (resetBlock_busy s), resetBlock_seqRes s,
    resetBlock_inbox s, resetBlock_draws s, resetBlock_resp s⟩

/-- Settles O50: no completion and no write sets FATAL. -/
theorem fatalIsNeverReached : Obligations.FatalIsNeverReached := fun _ _ => step_fatal

end Sys2Proof.Proofs
end

section
/-!
SUPPORT. What a digest written into DBUF leaves to read there, and when two states read the same DBUF (R137, R142).
-/

namespace Sys2Proof.Machine

/-- A byte string written at the front of a longer read: the string, then the bytes read before (R142). -/
theorem readBytes_writeBytes_front (m : Memory) (a : Nat) {d : Bytes} {n : Nat} (h : d.length ≤ n) :
    Memory.readBytes (Memory.writeBytes m a d) a n = d ++ (Memory.readBytes m a n).drop d.length := by
  obtain ⟨k, rfl⟩ := Nat.exists_eq_add_of_le h
  rw [readBytes_add, readBytes_writeBytes_same, readBytes_writeBytes_outside m (.inr (Nat.le_refl _)), readBytes_add m,
    List.drop_left' (readBytes_length m a d.length)]

/-- A digest written at the front of DBUF: the digest, then the bytes that stood there (R142). -/
theorem dbuf_writeDbuf_front (s : State) (e : Engine) (m : Bytes) :
    (s.writeDbuf 0 (e.hash m)).dbuf 0 128 = e.hash m ++ (s.dbuf 0 128).drop e.digestLen := by
  have hlen : (e.hash m).length ≤ 128 := by rw [hash_length]; exact (digestLen_le e).trans (by decide)
  rw [← hash_length e m]
  exact readBytes_writeBytes_front s.mem (dbufBase + 0) hlen

/-- EABSORB of the whole of DBUF onto an empty message (R141). -/
theorem exec_eabsorb_whole {s : State} {e : Engine} (h : s.msg e = []) :
    exec (.eabsorb e.field 0 128) s = .next (s.setMsg e (s.dbuf 0 128)).okState := by
  rw [exec_eabsorb (off := 0) (len := 128) (by decide) (by simp [h]), h]
  rfl

/-- EFINAL to the front of DBUF, where every digest fits (R142). -/
theorem exec_efinal_front (e : Engine) (s : State) :
    exec (.efinal e.field 0) s = .next ((s.writeDbuf 0 (e.hash (s.msg e))).setMsg e []).okState :=
  exec_efinal (off := 0) ((Nat.zero_add _).trans_le ((digestLen_le e).trans (by decide))) s

/-- Every read inside DBUF gives the same bytes in both states. -/
def SameDbuf (s s' : State) : Prop := ∀ off len : Nat, off + len ≤ 128 → s'.dbuf off len = s.dbuf off len

/-- The states agree in DBUF byte by byte. -/
theorem sameDbuf_iff {s s' : State} :
    SameDbuf s s' ↔ ∀ i < 128, Memory.read s'.mem (dbufBase + i) = Memory.read s.mem (dbufBase + i) := by
  constructor
  · intro h i hi
    simpa [State.dbuf, Memory.readBytes, tab] using h i 1 hi
  · intro h off len hlen
    refine tab_congr fun i hi => ?_
    rw [Nat.add_assoc]
    exact h (off + i) (by omega)

/-- The same bytes written at the same place of DBUF keep it the same in both states. -/
theorem SameDbuf.writeDbuf {s s' : State} (h : SameDbuf s s') (off : Nat) (d : Bytes) :
    SameDbuf (s.writeDbuf off d) (s'.writeDbuf off d) := by
  rw [sameDbuf_iff] at h ⊢
  intro i hi
  simp only [writeDbuf_mem, read_writeBytes, h i hi]

/-- What an engine command on e leaves is the same in both states, in all that the command is about: ERR, S[e] and
DBUF (R137). -/
structure SameResult (e : Engine) (t t' : State) : Prop where
  err : t'.err = t.err
  msg : t'.msg e = t.msg e
  dbuf : SameDbuf t t'

section
variable {s s' : State} {e : Engine} (hmsg : s'.msg e = s.msg e) (hdbuf : SameDbuf s s')
include hmsg hdbuf

/-- The same error in both states (R307). -/
theorem sameResult_errorState (code : ResultCode) : SameResult e (s.errorState code) (s'.errorState code) :=
  ⟨rfl, hmsg, hdbuf⟩

theorem exec_eabsorb_sameResult (off len : BitVec 8) :
    GivesNext (exec (.eabsorb e.field off len) s) fun t =>
      GivesNext (exec (.eabsorb e.field off len) s') (SameResult e t) := by
  by_cases h : 128 < off.toNat + len.toNat ∨ 2 ^ 61 - 1 < (s.msg e).length + len.toNat
  · exact ⟨_, exec_eabsorb_range h, _, exec_eabsorb_range (hmsg ▸ h), sameResult_errorState hmsg hdbuf .range⟩
  · have hread : Memory.readBytes s'.mem (0x200 + off.toNat) len.toNat =
        Memory.readBytes s.mem (0x200 + off.toNat) len.toNat := hdbuf off.toNat len.toNat (by omega)
    refine ⟨_, exec_eabsorb (by omega) (by omega), _, exec_eabsorb (by omega) (by rw [hmsg]; omega), rfl, ?_, hdbuf⟩
    simp only [okState_msg, setMsg_msg_same, hmsg, hread]

theorem exec_efinal_sameResult (off : BitVec 8) :
    GivesNext (exec (.efinal e.field off) s) fun t =>
      GivesNext (exec (.efinal e.field off) s') (SameResult e t) := by
  by_cases h : 128 < off.toNat + e.digestLen
  · exact ⟨_, exec_efinal_range h s, _, exec_efinal_range h s', sameResult_errorState hmsg hdbuf .range⟩
  · refine ⟨_, exec_efinal (by omega) s, _, exec_efinal (by omega) s', rfl, ?_, ?_⟩
    · simp only [okState_msg, setMsg_msg_same]
    · rw [hmsg]
      exact hdbuf.writeDbuf off.toNat (e.hash (s.msg e))

end

theorem exec_einit_sameResult {s s' : State} (e : Engine) (hdbuf : SameDbuf s s') :
    GivesNext (exec (.einit e.field) s) fun t => GivesNext (exec (.einit e.field) s') (SameResult e t) := by
  refine ⟨_, exec_einit e s, _, exec_einit e s', rfl, ?_, hdbuf⟩
  simp only [okState_msg, setMsg_msg_same]

/-- The commands on engine e (R137). -/
def IsCommandOn (e : Engine) (i : Instr) : Prop :=
  i = .einit e.field ∨ (∃ off len, i = .eabsorb e.field off len) ∨ ∃ off, i = .efinal e.field off

/-- A command on engine e leaves every other message alone (R137). -/
theorem exec_msg_other {e e' : Engine} {i : Instr} (hi : IsCommandOn e i) (he : e' ≠ e) (s : State) :
    GivesNext (exec i s) fun t => t.msg e' = s.msg e' := by
  obtain rfl | ⟨off, len, rfl⟩ | ⟨off, rfl⟩ := hi
  · exact ⟨_, exec_einit e s, setMsg_msg_other s [] he⟩
  · by_cases h : 128 < off.toNat + len.toNat ∨ 2 ^ 61 - 1 < (s.msg e).length + len.toNat
    · exact ⟨_, exec_eabsorb_range h, rfl⟩
    · exact ⟨_, exec_eabsorb (by omega) (by omega), setMsg_msg_other s _ he⟩
  · by_cases h : 128 < off.toNat + e.digestLen
    · exact ⟨_, exec_efinal_range h s, rfl⟩
    · exact ⟨_, exec_efinal (by omega) s, setMsg_msg_other _ [] he⟩

/-- What a command on engine e does to ERR, S[e] and DBUF is given by S[e] and DBUF (R137). -/
theorem exec_sameResult {s s' : State} {e : Engine} {i : Instr} (hi : IsCommandOn e i) (hmsg : s'.msg e = s.msg e)
    (hdbuf : SameDbuf s s') : GivesNext (exec i s) fun t => GivesNext (exec i s') (SameResult e t) := by
  obtain rfl | ⟨off, len, rfl⟩ | ⟨off, rfl⟩ := hi
  · exact exec_einit_sameResult e hdbuf
  · exact exec_eabsorb_sameResult hmsg hdbuf off len
  · exact exec_efinal_sameResult hmsg hdbuf off

end Sys2Proof.Machine
end

section
/-!
SUPPORT. What a write to an input reads back as (R36 to R39, R74).
-/

namespace Sys2Proof.Machine

/-- INLEN keeps the low eight bits of a written word (R37). -/
theorem setWidth_low_byte (v : Word) : (v.setWidth 8).setWidth 32 = v &&& 0xFF#32 := by
  apply BitVec.eq_of_toNat_eq
  rw [BitVec.toNat_and, BitVec.toNat_setWidth, BitVec.toNat_setWidth]
  exact (Nat.mod_eq_of_lt (by omega)).trans (Nat.and_two_pow_sub_one_eq_mod v.toNat 8).symm

/-- The word just written at an offset reads back (R74, R75). -/
theorem bufferWord_writeBufferWord (off : Nat) (v : Word) (s : State) :
    bufferWord (writeBufferWord off v s).mem off = v := by
  rw [bufferWord, writeBufferWord_mem, ← toLe32_length v, readBytes_writeBytes_same, le32_toLe32]

/-- A write to a buffer of an idle block replaces the word and no other byte or field (R74). -/
theorem memWrite_buffer_idle {s : State} (hidle : s.busy = false) (v : Word) {off : Nat}
    (h : (0x100 ≤ off ∧ off < 0x170) ∨ (0x200 ≤ off ∧ off < 0x280)) :
    memRead (memWrite off v s) off = v ∧
    (∀ a : Nat, ¬ (off ≤ a ∧ a < off + 4) → Memory.read (memWrite off v s).mem a = Memory.read s.mem a) ∧
    memWrite off v s = { s with mem := (memWrite off v s).mem } := by
  rw [memWrite_buffer h, guardedWrite_idle _ hidle]
  refine ⟨?_, fun a ha => read_writeBytes_outside s.mem (by rwa [toLe32_length]), rfl⟩
  rw [memRead_buffer _ (by omega), bufferWord_writeBufferWord]

end Sys2Proof.Machine
end

section
/-!
The statements of spec/40_engine_commands.md on the engines, and of spec/20_memory.md on writes.
-/

namespace Sys2Proof.Proofs

open Sys2Proof.Machine

/-- Settles O18: command by command, from S[e] and DBUF alone. -/
theorem enginesAreIndependent : Obligations.EnginesAreIndependent := by
  refine fun i e hi => ⟨fun s e' he => exec_msg_other hi he s, fun s s' hmsg hdbuf => ?_⟩
  obtain ⟨t, ht, t', ht', hsame⟩ := exec_sameResult hi hmsg hdbuf
  exact ⟨t, ht, t', ht', hsame.err, hsame.msg, hsame.dbuf⟩

/-- Settles O19: the three equations one after the other; the message is empty, then DBUF's 128 bytes, then empty, and
its digest goes over the front of DBUF. -/
theorem engineCommandsReplayAStage : Obligations.EngineCommandsReplayAStage := by
  intro s e
  refine ⟨_, exec_einit e s, _, exec_eabsorb_whole (by simp), _, exec_efinal_front e _, ?dbuf, rfl,
    fun e' he => ?others, ?own⟩
  case dbuf =>
    rw [okState_msg, setMsg_msg_same]
    exact dbuf_writeDbuf_front s e (s.dbuf 0 128)
  case others => simp [setMsg_msg_other _ _ he]
  case own => simp

/-- Settles O38: each input by its equation at an idle block; the other offsets ignore the write. -/
theorem writesReplaceTheTarget : Obligations.WritesReplaceTheTarget := by
  refine fun s v => ⟨fun hidle => ⟨?variant, ?inlen, ?readBack, fun off _ hbuf => memWrite_buffer_idle hidle v hbuf⟩,
    fun off hoff => memWrite_ignored hoff v s, fun off d halign => busAccess_write halign d s⟩
  case variant => rw [memWrite_variant, guardedWrite_idle _ hidle]
  case inlen => rw [memWrite_inlen, guardedWrite_idle _ hidle]
  case readBack => rw [memWrite_inlen, guardedWrite_idle _ hidle, memRead_inlen, setWidth_low_byte]

end Sys2Proof.Proofs
end

section
/-!
SUPPORT. The cascade's working buffer past a digest (R276): no stage reaches the upper half, and only Haval's stage
leaves bytes of the lower half (R281, R282).
-/

namespace Sys2Proof.Machine

/-- A stage leaves every byte from its digest's end on (R276). -/
theorem drop_stageFn {H : EngineSet} (hH : EngineWidths H) {e : Engine} {k : Nat} (h : e.digestLen ≤ k) (b : Bytes) :
    (stageFn H e b).drop k = b.drop k := by
  have hlen : (H e b).length ≤ k := (hH e b).trans_le h
  rw [stageFn, List.drop_append, List.drop_eq_nil_of_le hlen, List.nil_append, List.drop_drop, hH, Nat.add_sub_of_le h]

/-- No stage reaches the upper half of the buffer (R281). -/
theorem drop_foldl_stageFn {H : EngineSet} (hH : EngineWidths H) (es : List Engine) (b : Bytes) :
    (es.foldl (fun b e => stageFn H e b) b).drop 64 = b.drop 64 := by
  induction es generalizing b with
  | nil => rfl
  | cons e es ih => rw [List.foldl_cons, ih, drop_stageFn hH (digestLen_le e)]

/-- Stage 1 of pass 1 leaves zeros in the upper half (R271). -/
theorem drop_blake_zeros {H : EngineSet} (hH : EngineWidths H) (x : Bytes) :
    (H .blake x ++ zeros 64).drop 64 = zeros 64 :=
  List.drop_left' (hH .blake x)

/-- The zeroing between the passes leaves zeros in the upper half (R277). -/
theorem drop_zeroUpper {b : Bytes} (hb : b.length = 128) : (b.take 32 ++ zeros 96).drop 64 = zeros 64 := by
  have hlen : (b.take 32).length = 32 := by rw [List.length_take, hb]; rfl
  rw [List.drop_append, hlen, List.drop_eq_nil_of_le (hlen.trans_le (by decide)), List.nil_append, zeros,
    List.drop_replicate]
  rfl

/-- Every stage of either pass absorbs a buffer of 128 bytes, zero in its upper half (R281). -/
def ZeroUpper (b : Bytes) : Prop := b.length = 128 ∧ b.drop 64 = zeros 64

theorem ZeroUpper.foldl_stageFn {H : EngineSet} (hH : EngineWidths H) (es : List Engine) {b : Bytes}
    (hb : ZeroUpper b) : ZeroUpper (es.foldl (fun b e => stageFn H e b) b) :=
  ⟨foldl_stageFn_length hH es hb.1, (drop_foldl_stageFn hH es b).trans hb.2⟩

theorem zeroUpper_blake {H : EngineSet} (hH : EngineWidths H) (x : Bytes) : ZeroUpper (H .blake x ++ zeros 64) :=
  ⟨by rw [List.length_append, hH, zeros_length]; rfl, drop_blake_zeros hH x⟩

theorem zeroUpper_take {b : Bytes} (hb : b.length = 128) : ZeroUpper (b.take 32 ++ zeros 96) :=
  ⟨by rw [List.length_append, List.length_take, hb, zeros_length]; rfl, drop_zeroUpper hb⟩

/-- A digest of 64 bytes over a buffer with a zero upper half is the same under both readings (R282). -/
theorem stageFn_eq_padStageFn {H : EngineSet} {e : Engine} (he : e.digestLen = 64) {b : Bytes} (hb : ZeroUpper b) :
    stageFn H e b = padStageFn H e b := by
  rw [stageFn, padStageFn, he, hb.2]

/-- Stages with digests of 64 bytes are the same under both readings (R282). -/
theorem foldl_stageFn_eq_pad {H : EngineSet} (hH : EngineWidths H) {es : List Engine}
    (hes : ∀ e ∈ es, e.digestLen = 64) {b : Bytes} (hb : ZeroUpper b) :
    es.foldl (fun b e => stageFn H e b) b = es.foldl (fun b e => padStageFn H e b) b := by
  induction es generalizing b with
  | nil => rfl
  | cons e es ih =>
    have he : e.digestLen = 64 := hes e List.mem_cons_self
    have hstep : ZeroUpper (stageFn H e b) := hb.foldl_stageFn hH [e]
    rw [List.foldl_cons, List.foldl_cons, ih (fun e' he' => hes e' (List.mem_cons_of_mem e he')) hstep,
      stageFn_eq_padStageFn he hb]

/-- Haval's digest fills the bytes that leave its stage, under both readings (R276, R282). -/
theorem take_haval {H : EngineSet} (hH : EngineWidths H) (b : Bytes) :
    (stageFn H .haval b).take 32 = H .haval b ∧ (padStageFn H .haval b).take 32 = H .haval b :=
  ⟨List.take_left' (hH .haval b), List.take_left' (hH .haval b)⟩

/-- A pass that ends with Haval hands on the same 32 bytes under both readings (R282). -/
theorem take_pass_eq_pad {H : EngineSet} (hH : EngineWidths H) {es : List Engine} (hes : ∀ e ∈ es, e.digestLen = 64)
    {b : Bytes} (hb : ZeroUpper b) :
    ((es ++ [Engine.haval]).foldl (fun b e => stageFn H e b) b).take 32 =
      ((es ++ [Engine.haval]).foldl (fun b e => padStageFn H e b) b).take 32 := by
  rw [List.foldl_append, List.foldl_append, ← foldl_stageFn_eq_pad hH hes hb]
  exact (take_haval hH _).1.trans (take_haval hH _).2.symm

/-- Haval comes last in the cascade order, and every engine before it has a digest of 64 bytes (R2, R275). -/
theorem engines_before_haval : Engine.all = Engine.all.take 16 ++ [Engine.haval] ∧
    ∀ e ∈ Engine.all.take 16, e.digestLen = 64 := by decide

theorem xevanFn_eq_xevanPadFn {H : EngineSet} (hH : EngineWidths H) (x : Bytes) : xevanFn H x = xevanPadFn H x := by
  obtain ⟨hall, hwide⟩ := engines_before_haval
  have hpass1 : (pass1Fn H x).take 32 =
      ((Engine.all.drop 1).foldl (fun b e => padStageFn H e b) (padStageFn H .blake x)).take 32 :=
    take_pass_eq_pad hH (es := (Engine.all.take 16).drop 1) (fun e he => hwide e (List.mem_of_mem_drop he))
      (zeroUpper_blake hH x)
  rw [xevanFn, midFn, xevanPadFn, ← hpass1, pass2Fn, hall]
  exact take_pass_eq_pad hH hwide (zeroUpper_take (pass1Fn_length hH x))

/-- Pass 1 up to its stage k leaves the upper half zero (R281). -/
theorem runStages_first_zeroUpper {H : EngineSet} (hH : EngineWidths H) {n : Nat} {x : Bytes} (hx : x.length = n)
    {es : List Engine} (hes : .blake ∉ es) (c : Cascade) :
    ∃ c', runStages H n x .first (.blake :: es) { c with wbuf := zeros 128 } = some c' ∧ ZeroUpper c'.wbuf := by
  obtain ⟨c', hrun, hw⟩ := runStages_first hH hx hes c
  exact ⟨c', hrun, hw ▸ (zeroUpper_blake hH x).foldl_stageFn hH es⟩

/-- Stages of pass 2 keep the upper half zero (R281). -/
theorem runStages_second_zeroUpper {H : EngineSet} (hH : EngineWidths H) (n : Nat) (x : Bytes) (es : List Engine)
    {c : Cascade} (hc : ZeroUpper c.wbuf) :
    ∃ c', runStages H n x .second es c = some c' ∧ ZeroUpper c'.wbuf := by
  obtain ⟨c', hrun, hw⟩ := runStages_foldl hH n x (p := .second) (es := es) (by simp) hc.1
  exact ⟨c', hrun, hw ▸ hc.foldl_stageFn hH es⟩

/-- The stages of pass 1 up to stage k + 1 are Blake's and k more, none of them Blake's (R275). -/
theorem take_engines (k : Nat) : Engine.all.take (k + 1) = .blake :: (Engine.all.drop 1).take k ∧
    .blake ∉ (Engine.all.drop 1).take k :=
  ⟨rfl, fun h => absurd (List.mem_of_mem_take h) (by decide)⟩

end Sys2Proof.Machine
end

section
/-!
SUPPORT. While FATAL is set (R305): no event but a reset changes what the block shows of it.
-/

namespace Sys2Proof.Machine

/-- What a block that stopped with FATAL keeps. -/
structure StillFatal (s t : State) : Prop where
  fatal : t.fatal = true
  busy : t.busy = false
  err : t.err = s.err
  msgs : t.msgs = s.msgs
  seqCur : t.seqCur = s.seqCur

theorem WriteEffect.stillFatal {off : Nat} {v : Word} {s t : State} (h : WriteEffect off v s t)
    (hf : s.fatal = true) (hb : s.busy = false) :
    StillFatal s t ∨ (off = 0x004 ∧ v[1] = true ∧ t = resetBlock s) := by
  cases h with
  | softReset hoff hsrst => exact .inr ⟨hoff, hsrst, rfl⟩
  | issued _ hf' => simp [hf] at hf'
  | ignored | irqEnable | acknowledged | dropped | variant | inlen | buffer => exact .inl ⟨hf, hb, rfl, rfl, rfl⟩

theorem HostEffect.stillFatal {ev : HostEvent} {s t : State} (h : HostEffect ev s t) (hf : s.fatal = true)
    (hb : s.busy = false) : StillFatal s t ∨ (ev.IsReset ∧ t.AtReset) := by
  cases h with
  | reset hev => exact .inr ⟨.inl hev, resetBlock_atReset s⟩
  | answer r => exact .inl ⟨hf, hb, rfl, rfl, rfl⟩
  | write off v hev _ heff =>
    obtain hstill | ⟨hoff, hsrst, rfl⟩ := heff.stillFatal hf hb
    · exact .inl ⟨hstill.fatal, hstill.busy, hstill.err, hstill.msgs, hstill.seqCur⟩
    · refine .inr ⟨.inr ⟨v, by simpa using hsrst, hoff ▸ hev⟩, resetBlock_answered_atReset s _⟩

end Sys2Proof.Machine
end

section
/-!
The statements of spec/45_orchestrator.md on the cascade, and of spec/60_exceptions.md on FATAL.
-/

namespace Sys2Proof.Proofs

open Sys2Proof.Machine

/-- Settles O20: XEVAN's equation; its 32 bytes go to DIGEST and nowhere else. -/
theorem xevanWritesTheCascadeDigest : Obligations.XevanWritesTheCascadeDigest := by
  intro s hmin hmax
  obtain ⟨c, hexec⟩ := exec_xevan hmin hmax
  have hlen := xevanFn_length hash_length (s.inbuf (inputLen s.variant))
  exact ⟨_, hexec, digest_writeDigest _ hlen, fun a ha => read_writeBytes_outside s.mem (by rwa [hlen]), rfl⟩

/-- Settles O21: the two passes fold the stage functions over WBUF, whatever the cascade held before. -/
theorem sequencerComputesTheCascadeFunction : Obligations.SequencerComputesTheCascadeFunction := by
  intro H n x c hH hx
  obtain ⟨c', hrun, hw⟩ := runCascade_wbuf hH hx c
  exact ⟨c', hrun, by rw [hw, xevanFn], by rw [hw, pass2Fn, foldl_stageFn_length hH _ (midFn_length hH x)]⟩

/-- Settles O25: no digest is longer than 64 bytes, so the zeros of R271 and R277 stay; Haval's 32 bytes leave the
bytes after them to the SHA-512 stage. -/
theorem upperHalfIsZeroAtEveryAbsorb : Obligations.UpperHalfIsZeroAtEveryAbsorb := by
  intro H n x c hH hx
  refine ⟨fun k hk _ => ?pass1, ?pass2⟩
  case pass1 =>
    obtain ⟨k, rfl⟩ := Nat.exists_eq_add_of_le' hk
    obtain ⟨htake, hnot⟩ := take_engines k
    rw [htake]
    exact runStages_first_zeroUpper hH hx hnot c
  case pass2 =>
    obtain ⟨c16, hrun16, hw16⟩ := runStages_first hH hx (es := (Engine.all.drop 1).take 15) (by decide) c
    obtain ⟨c17, hrun17, hw17⟩ := runStages_first hH hx (es := Engine.all.drop 1) (by decide) c
    have hhaval : c17.wbuf = stageFn H .haval c16.wbuf := by rw [hw16, hw17]; rfl
    have hlen : c17.wbuf.length = 128 := hw17 ▸ pass1Fn_length hH x
    refine ⟨c16, c17, hrun16, hrun17, ?_, rfl,
      fun k _ => runStages_second_zeroUpper hH n x _ (zeroUpper_take hlen)⟩
    rw [slice, hhaval, drop_stageFn hH (Nat.le_refl 32), slice]

/-- Settles O26: up to Haval both readings hold the same buffer, and Haval's 32 bytes are all that leaves a pass. -/
theorem bufferReadingsGiveTheSameDigest : Obligations.BufferReadingsGiveTheSameDigest :=
  fun _ x hH => xevanFn_eq_xevanPadFn hH x

/-- Settles O51: an idle block takes no core step, and FATAL lets no write issue a command. -/
theorem fatalIsStuckUntilReset : Obligations.FatalIsStuckUntilReset := by
  intro s t hf hb h
  cases step_effect h with
  | core hbusy _ => simp [hb] at hbusy
  | host ev rest hinbox heff =>
    obtain hstill | ⟨hreset, hat⟩ := heff.stillFatal (s := takeEvent rest s) hf hb
    · exact .inl ⟨hstill.fatal, hstill.busy, hstill.err, hstill.msgs, hstill.seqCur⟩
    · exact .inr ⟨⟨ev, rest, hinbox, hreset⟩, hat⟩
  | idle => exact .inl ⟨hf, hb, rfl, rfl, rfl⟩

end Sys2Proof.Proofs
end

section
/-!
SUPPORT. The paddings of the eleven engines that have one (files 41 to 43): what follows the message fills its last
block.
-/

namespace Sys2Proof.Machine

/-- The padded message p of m is a whole number of blocks of n bytes, longer than m, with m in front. -/
def FillsBlocks (n : Nat) (m p : Bytes) : Prop :=
  p.length % n = 0 ∧ m.length < p.length ∧ p.take m.length = m

/-- A padding is appended, is not empty, and completes the last block. -/
theorem fillsBlocks_append {n : Nat} (m : Bytes) {pad : Bytes} (hpos : 0 < pad.length)
    (h : (m.length + pad.length) % n = 0) : FillsBlocks n m (m ++ pad) :=
  ⟨by rwa [List.length_append], by rw [List.length_append]; omega, List.take_left⟩

/-- The padding byte and the zeros after it leave r bytes of the last block used; k more fill it. -/
theorem add_padZeros_mod (len : Nat) {n r k : Nat} (hr : r < n) (hk : (r + k) % n = 0) :
    (len + (padZeros len n r + 1 + k)) % n = 0 := by
  have hsplit : len + (padZeros len n r + 1 + k) = (len + 1 + padZeros len n r) + k := by omega
  rw [hsplit, Nat.add_mod, padZeros_mod len hr, Nat.add_mod_mod, hk]

section
variable (m : Bytes) {n r : Nat} {pad tail : Bytes} (hr : r < n) (hpad : pad.length = padZeros m.length n r + 1)
include hr hpad

/-- A padding byte with the zeros after it, and a tail for the rest of the block. -/
theorem fillsBlocks_padZeros (htail : (r + tail.length) % n = 0) : FillsBlocks n m (m ++ pad ++ tail) := by
  rw [List.append_assoc]
  refine fillsBlocks_append m (by rw [List.length_append]; omega) ?_
  rw [List.length_append, hpad]
  exact add_padZeros_mod m.length hr htail

/-- A padding byte with the zeros after it, up to the end of a block. -/
theorem fillsBlocks_padZeros_last (htail : r % n = 0) : FillsBlocks n m (m ++ pad) := by
  have h := fillsBlocks_padZeros m (tail := []) hr hpad htail
  rwa [List.append_nil] at h

end

/-- The length of a padding byte with z zeros after it. -/
theorem length_cons_zeros (b : Byte) (z : Nat) : (b :: zeros z).length = z + 1 := by
  rw [List.length_cons, zeros_length]

section
variable (m : Bytes)

theorem blakePad_fillsBlocks : FillsBlocks 128 m (blakePad m) :=
  fillsBlocks_padZeros m (r := 112) (by decide) (by rw [List.length_set, length_cons_zeros]) (by rw [toBE_length])

theorem bmwPad_fillsBlocks : FillsBlocks 128 m (bmwPad m) :=
  fillsBlocks_padZeros m (r := 120) (by decide) (length_cons_zeros _ _) (by rw [toLE_length])

theorem groestlPad_fillsBlocks : FillsBlocks 128 m (groestlPad m) :=
  fillsBlocks_padZeros m (r := 120) (by decide) (length_cons_zeros _ _) (by rw [toBE_length])

/-- JH's padding takes a block more than the others where the message ends one (R189). -/
theorem jhPad_fillsBlocks : FillsBlocks 64 m (jhPad m) := by
  rw [jhPad, List.append_assoc]
  refine fillsBlocks_append m ?_ ?_ <;> rw [List.length_append, length_cons_zeros, toBE_length] <;> omega

theorem keccakPad_fillsBlocks : FillsBlocks 72 m (keccakPad m) :=
  fillsBlocks_padZeros_last m (r := 0) (by decide) (by rw [List.length_set, length_cons_zeros]) rfl

theorem cubePad_fillsBlocks : FillsBlocks 32 m (cubePad m) :=
  fillsBlocks_padZeros_last m (r := 0) (by decide) (length_cons_zeros _ _) rfl

theorem echoPad_fillsBlocks : FillsBlocks 128 m (echoPad m) := by
  rw [echoPad, List.append_assoc]
  exact fillsBlocks_padZeros m (r := 110) (by decide) (length_cons_zeros _ _)
    (by rw [List.length_append, toLE_length, toLE_length])

theorem shabalPad_fillsBlocks : FillsBlocks 64 m (shabalPad m) :=
  fillsBlocks_padZeros_last m (r := 0) (by decide) (length_cons_zeros _ _) rfl

theorem whirlPad_fillsBlocks : FillsBlocks 64 m (whirlPad m) :=
  fillsBlocks_padZeros m (r := 32) (by decide) (length_cons_zeros _ _) (by rw [toBE_length])

theorem shaPad_fillsBlocks : FillsBlocks 128 m (shaPad m) :=
  fillsBlocks_padZeros m (r := 112) (by decide) (length_cons_zeros _ _) (by rw [toBE_length])

theorem havalPad_fillsBlocks : FillsBlocks 128 m (havalPad m) := by
  rw [havalPad, List.append_assoc]
  exact fillsBlocks_padZeros m (r := 118) (by decide) (length_cons_zeros _ _)
    (by rw [List.length_append, toLE_length]; rfl)

end

end Sys2Proof.Machine
end

section
/-!
The statements of files 41 to 43 on the widths of digests and on the paddings.
-/

namespace Sys2Proof.Proofs

open Sys2Proof.Machine

/-- Settles O52: N_e is 32 for Haval and 64 for every other engine. -/
theorem digestsHaveTheirWidth : Obligations.DigestsHaveTheirWidth := by
  intro e m
  rw [hash_length]
  cases e <;> decide

/-- Settles O53: each padding by its parts. -/
theorem paddingFillsWholeBlocks : Obligations.PaddingFillsWholeBlocks := by
  intro m
  simp only [List.forall_mem_cons]
  exact ⟨blakePad_fillsBlocks m, bmwPad_fillsBlocks m, groestlPad_fillsBlocks m, jhPad_fillsBlocks m,
    keccakPad_fillsBlocks m, cubePad_fillsBlocks m, echoPad_fillsBlocks m, shabalPad_fillsBlocks m,
    whirlPad_fillsBlocks m, shaPad_fillsBlocks m, havalPad_fillsBlocks m, List.forall_mem_nil _⟩

end Sys2Proof.Proofs
end

section
/-!
SUPPORT. The S-boxes by their constructions (R162, R240).
-/

namespace Sys2Proof.Machine

/-- The inverse of a byte in GF(2^8) of AES as its power 254: the product of its powers 2, 4, 8, …, 128, by repeated
squaring. -/
def aesInverse (x : Byte) : Byte :=
  ((List.range 7).foldl (fun (q : Byte × Byte) _ => (gmul aesPoly q.1 q.1, gmul aesPoly q.2 (gmul aesPoly q.1 q.1)))
    (x, 1#8)).2

/-- The affine map of the AES S-box (R162). -/
def aesAffine (y : Byte) : Byte :=
  y ^^^ y.rotateLeft 1 ^^^ y.rotateLeft 2 ^^^ y.rotateLeft 3 ^^^ y.rotateLeft 4 ^^^ 0x63#8

/-- The power 254 is the inverse of every byte but 0 (R161). -/
theorem gmul_aesInverse : ∀ x : Byte, x ≠ 0#8 → gmul aesPoly x (aesInverse x) = 1#8 := by decide +kernel

/-- The table of the AES S-box is the affine map of the inverse, which takes 0 to 0 (R162). -/
theorem sbAes_eq : ∀ x : Byte, sbAes x = aesAffine (aesInverse x) := by decide +kernel

/-- The mini-box E of Whirlpool (R240). -/
def whirlE : List (BitVec 4) := [1, 11, 9, 12, 13, 6, 15, 3, 14, 8, 7, 4, 10, 2, 5, 0]

/-- The mini-box R of Whirlpool (R240). -/
def whirlR : List (BitVec 4) := [7, 12, 11, 13, 14, 4, 9, 15, 6, 3, 8, 10, 2, 5, 1, 0]

/-- The inverse of the mini-box E, entry by entry (R240). -/
def whirlEInverse : List (BitVec 4) := tab 16 fun i => BitVec.ofNat 4 (whirlE.idxOf (BitVec.ofNat 4 i))

theorem whirlEInverse_whirlE : ∀ z : BitVec 4, nth whirlEInverse (nth whirlE z.toNat).toNat = z := by decide

/-- The table of Whirlpool's S-box is built from the mini-boxes (R240). -/
theorem sbW_append : ∀ h l : BitVec 4,
    let u := nth whirlE h.toNat
    let w := nth whirlEInverse l.toNat
    let r := nth whirlR (u ^^^ w).toNat
    sbW (h ++ l) = nth whirlE (u ^^^ r).toNat ++ nth whirlEInverse (w ^^^ r).toNat := by decide +kernel

end Sys2Proof.Machine
end

section
/-!
SUPPORT. The listed constants by their constructions (R184, R187, R200, R216, R245), each list evaluated once.
-/

namespace Sys2Proof.Machine

/-- Each round constant of JH is R_64 of the one before it (R187). -/
theorem jhC_succ : ∀ r < 41, jhC.getD (r + 1) 0 =
    (jhRound 64 (tab 64 fun i => BitVec.ofNat 4 (jhC.getD r 0 >>> (4 * (63 - i)))) 0).foldl
      (fun n x => 16 * n + x.toNat) 0 := by decide +kernel

/-- CubeHash's initial state is 160 rounds of its parameters (R200). -/
theorem cubeRounds_parameters :
    cubeRounds 160 ([64#32, 32#32, 16#32] ++ List.replicate 29 0#32) = cubeIV := by decide +kernel

/-- Skein's chain value is UBI of the configuration (R184). -/
theorem ubi_skeinCfg : ubi (List.replicate 8 0#64) skeinCfg 4 = skeinIV := by decide +kernel

/-- Shabal's state is its two blocks of counters, from the zero state with the counter before 0 (R216). -/
theorem shabalBlock_counters :
    shabalBlock
      (shabalBlock { a := List.replicate 12 0#32, b := List.replicate 16 0#32, c := List.replicate 16 0#32,
                     w := 0xFFFFFFFFFFFFFFFF#64 }
        (tab 16 fun i => BitVec.ofNat 32 (512 + i)))
      (tab 16 fun i => BitVec.ofNat 32 (528 + i)) = shabalIV := by decide +kernel

/-- The primes up to 409, by trial division as the statement of R245's constants finds them. -/
def primesTo409 : List Nat := (List.range 410).filter fun p => 2 ≤ p && (List.range p).all fun d => d < 2 || p % d != 0

/-- The 80 primes of SHA-512's constants (R245). -/
def shaPrimes : List Nat :=
  [ 2, 3, 5, 7, 11, 13, 17, 19, 23, 29, 31, 37, 41, 43, 47, 53, 59, 61, 67, 71,
    73, 79, 83, 89, 97, 101, 103, 107, 109, 113, 127, 131, 137, 139, 149, 151, 157, 163, 167, 173,
    179, 181, 191, 193, 197, 199, 211, 223, 227, 229, 233, 239, 241, 251, 257, 263, 269, 271, 277, 281,
    283, 293, 307, 311, 313, 317, 331, 337, 347, 349, 353, 359, 367, 373, 379, 383, 389, 397, 401, 409 ]

theorem primesTo409_eq : primesTo409 = shaPrimes := by decide +kernel

/-- K[t] is the fraction of the cube root of the t-th prime, cut after 64 bits (R245). -/
theorem shaK_cube_root : ∀ t < 80, ∃ a < 8, (a * 2 ^ 64 + (nth shaK t).toNat) ^ 3 ≤ shaPrimes.getD t 0 * 2 ^ 192 ∧
    shaPrimes.getD t 0 * 2 ^ 192 < (a * 2 ^ 64 + (nth shaK t).toNat + 1) ^ 3 := by decide +kernel

/-- IV512[i] is the fraction of the square root of the i-th prime, cut after 64 bits (R245). -/
theorem iv512_square_root : ∀ i < 8, ∃ a < 8, (a * 2 ^ 64 + (nth iv512 i).toNat) ^ 2 ≤ shaPrimes.getD i 0 * 2 ^ 128 ∧
    shaPrimes.getD i 0 * 2 ^ 128 < (a * 2 ^ 64 + (nth iv512 i).toNat + 1) ^ 2 := by decide +kernel

theorem shaK_length : shaK.length = 80 := by decide +kernel

end Sys2Proof.Machine
end

section
/-!
The statements of files 41 to 43 on the listed tables and constants.
-/

namespace Sys2Proof.Proofs

open Sys2Proof.Machine

/-- Settles O54: the inverse of a byte is its power 254, and the inverse of the mini-box E is read off E. -/
theorem sboxesFollowTheirConstruction : Obligations.SboxesFollowTheirConstruction :=
  ⟨by decide, fun x hx => ⟨aesInverse x, gmul_aesInverse x hx, sbAes_eq x⟩, whirlE, whirlEInverse, whirlR, rfl, rfl,
    whirlEInverse_whirlE, sbW_append⟩

/-- Settles O55: each construction evaluated once; the trial division finds the primes, and the roots are taken of
their list. -/
theorem constantsFollowTheirConstruction : Obligations.ConstantsFollowTheirConstruction := by
  refine ⟨jhC_succ, cubeRounds_parameters, ubi_skeinCfg, shabalBlock_counters, ?roots, shaK_length, rfl⟩
  case roots =>
    intro primes
    have hprimes : primes = shaPrimes := primesTo409_eq
    rw [hprimes]
    exact ⟨shaK_cube_root, iv512_square_root⟩

end Sys2Proof.Proofs
end
